-- ==== Sys2Proof/Word.lean ====
section
/-! DEFINITION. The word types of RustBoy CORE (00_scope.md R4, R5): bytes of 8 bits, words and addresses of 16. -/

namespace Sys2Proof

/-- A `u8`: a general register, a byte of memory, an opcode byte. -/
abbrev Byte := BitVec 8

/-- A `u16`: every value that passes between an operand and the Executor (40_step_operands.md R110). -/
abbrev Word := BitVec 16

/-- A byte address (20_memory.md R40); the program counter is one (10_state.md R18). -/
abbrev Addr := BitVec 16

end Sys2Proof
end

