-- ==== Sys2Proof/Config.lean ====
section
/-! DEFINITION. What is fixed for one machine and is no state (00_scope.md R4; 10_state.md R26). RustBoy CORE has
no free value: the spec leaves no result of an instruction open. -/

namespace Sys2Proof

/-- The two opcode tables of 92_eei_decisions.md D2 (30_encoding.md R78, R84). -/
inductive Profile where
  | extended
  | minimal
  deriving DecidableEq, Repr

/-- OPTABLE_PROFILE: open in the spec, with the default `extended` (R4, D2). `decode`, `fetchDecode` and `stepWith`
take the profile as an argument; only `step`, `decodeTableWord` and the smoke tests use this default.
DESIGN CHOICE (log 3). -/
def Config.profile : Profile := .extended

/-- RAM_SIZE (R4; 10_state.md R22). -/
def Config.ramSize : Nat := 0x2000

/-- RESET_PC (R4; 10_state.md R30). -/
def Config.resetPc : Addr := 0x0100#16

/-- The length of the image of zero bytes that `State.reset` stands for; `State.resetWith` takes any image.
DESIGN CHOICE (log 1): ROM_LEN is open (92_eei_decisions.md D14). -/
def Config.resetRomLen : Nat := 0x8000

end Sys2Proof
end

