-- ==== Sys2Proof/Syntax.lean ====
section
/-! DEFINITION. The syntax of RustBoy CORE: the names of registers and flags, the operand descriptors
and decoded-instruction records of 30_encoding.md R74 and R75, the instruction forms (one per
instruction rule) and `Instr`, one constructor per row of spec/opcode_table.json. -/

namespace Sys2Proof

/-- The seven 8-bit registers (10_state.md R10). -/
inductive Reg8 where
  | a | b | c | d | e | h | l
  deriving DecidableEq, Repr

/-- The three paired views (10_state.md R12). -/
inductive Pair where
  | bc | de | hl
  deriving DecidableEq, Repr

/-- A register name as an operand descriptor holds it: an 8-bit register or a pair (30_encoding.md R75). -/
inductive RegName where
  | r8 (r : Reg8)
  | pair (p : Pair)
  deriving DecidableEq, Repr

/-- The two stored flags and the constant pseudo-flag (10_state.md R15). -/
inductive FlagName where
  | z | c | always
  deriving DecidableEq, Repr

/-- The jump conditions of `JP cc,a16` and `JR cc,r8` (30_encoding.md R72). -/
inductive Cond where
  | nz | z | nc | c
  deriving DecidableEq, Repr

/-- An operand descriptor (30_encoding.md R75): where a value is, not the value. -/
inductive Operand where
  /-- the byte at `addr` -/
  | absByte (addr : Addr)
  /-- the little-endian word at `addr` -/
  | absWord (addr : Addr)
  /-- a register or pair -/
  | reg (n : RegName)
  /-- the byte at the address the register holds -/
  | indByte (n : RegName)
  /-- the word at the address the register holds -/
  | indWord (n : RegName)
  /-- pc plus the signed byte at `addr` -/
  | rel (addr : Addr)
  /-- a flag -/
  | flag (f : FlagName)
  /-- a negated flag -/
  | notFlag (f : FlagName)
  deriving DecidableEq, Repr

/-- The decoded-instruction record (30_encoding.md R74): a kind and its operand descriptors. -/
inductive Record where
  | nop
  | add (op1 op2 : Operand)
  | xor (op1 op2 : Operand)
  | load (dst src : Operand)
  | jump (cond target : Operand)
  | inc (op : Operand)
  | dec (op : Operand)
  | shl (op : Operand)
  | stacked (seq : List Record)
  | di
  | cpl
  | undefined (opcode : Byte) (addr : Addr) (sub : Option Byte)
  deriving Repr

/-- The five formats of 30_encoding.md R71. -/
inductive Format where
  | f1 | f2i | f2r | f3 | fcb
  deriving DecidableEq, Repr

/-- The instruction forms: one per rule of 41_load.md, 42_alu.md, 43_control.md and 44_misc.md that gives an
instruction its meaning. The registers, pairs and conditions a form ranges over are its arguments. -/
inductive Form where
  /-- LD r,r' (R131) -/
  | ldRegReg (dst src : Reg8)
  /-- LD r,(HL) (R132) -/
  | ldRegInd (dst : Reg8)
  /-- LD (HL),r (R133) -/
  | ldIndReg (src : Reg8)
  /-- LD r,d8 (R134) -/
  | ldRegImm (dst : Reg8)
  /-- LD (HL),d8 (R135) -/
  | ldIndImm
  /-- LD rr,d16 (R136) -/
  | ldPairImm (p : Pair)
  /-- LD (BC),A (R137) -/
  | ldIndBCA
  /-- LD (DE),A (R138) -/
  | ldIndDEA
  /-- LD A,(BC) (R139) -/
  | ldAIndBC
  /-- LD A,(DE) (R140) -/
  | ldAIndDE
  /-- LD (HL+),A (R141) -/
  | ldHLIncA
  /-- LD A,(HL+) (R142) -/
  | ldAHLInc
  /-- LD (HL-),A (R143) -/
  | ldHLDecA
  /-- LD A,(HL-) (R144) -/
  | ldAHLDec
  /-- ADD A,r (R167) -/
  | addReg (r : Reg8)
  /-- ADD A,(HL) (R168) -/
  | addInd
  /-- ADD A,d8 (R169) -/
  | addImm
  /-- ADD HL,rr (R170) -/
  | addPair (p : Pair)
  /-- XOR r (R171) -/
  | xorReg (r : Reg8)
  /-- XOR (HL) (R172) -/
  | xorInd
  /-- XOR d8 (R173) -/
  | xorImm
  /-- INC r (R174) -/
  | incReg (r : Reg8)
  /-- INC (HL) (R175) -/
  | incInd
  /-- INC rr (R176) -/
  | incPair (p : Pair)
  /-- DEC r (R177) -/
  | decReg (r : Reg8)
  /-- DEC (HL) (R178) -/
  | decInd
  /-- DEC rr (R179) -/
  | decPair (p : Pair)
  /-- SLA r (R180) -/
  | slaReg (r : Reg8)
  /-- SLA (HL) (R181) -/
  | slaInd
  /-- CPL (R182) -/
  | cpl
  /-- JP a16 (R191) -/
  | jpAbs
  /-- JP cc,a16 (R192) -/
  | jpAbsCC (cc : Cond)
  /-- JR r8 (R193) -/
  | jrRel
  /-- JR cc,r8 (R194) -/
  | jrRelCC (cc : Cond)
  /-- JP (HL) (R195) -/
  | jpHL
  /-- NOP (R210) -/
  | nop
  /-- DI (R211) -/
  | di
  deriving DecidableEq, Repr

/-- The instructions, one constructor per row of spec/opcode_table.json. A constructor has no argument: the
Decoder never reads or assembles an operand byte, it keeps the byte's ADDRESS, `pc0 + 1`, for Execute
(30_encoding.md R73), so the row is all that is decoded. -/
inductive Instr where
  -- The load family (41_load.md)
  | ldBC_d16 | ldIndBC_A | ldB_d8 | ldA_indBC | ldC_d8 | ldDE_d16 | ldIndDE_A | ldD_d8 | ldA_indDE
  | ldE_d8 | ldHL_d16 | ldIndHLInc_A | ldH_d8 | ldA_indHLInc | ldL_d8 | ldIndHLDec_A | ldIndHL_d8
  | ldA_indHLDec | ldA_d8 | ldB_B | ldB_C | ldB_D | ldB_E | ldB_H | ldB_L | ldB_indHL | ldB_A
  | ldC_B | ldC_C | ldC_D | ldC_E | ldC_H | ldC_L | ldC_indHL | ldC_A | ldD_B | ldD_C | ldD_D
  | ldD_E | ldD_H | ldD_L | ldD_indHL | ldD_A | ldE_B | ldE_C | ldE_D | ldE_E | ldE_H | ldE_L
  | ldE_indHL | ldE_A | ldH_B | ldH_C | ldH_D | ldH_E | ldH_H | ldH_L | ldH_indHL | ldH_A | ldL_B
  | ldL_C | ldL_D | ldL_E | ldL_H | ldL_L | ldL_indHL | ldL_A | ldIndHL_B | ldIndHL_C | ldIndHL_D
  | ldIndHL_E | ldIndHL_H | ldIndHL_L | ldIndHL_A | ldA_B | ldA_C | ldA_D | ldA_E | ldA_H | ldA_L
  | ldA_indHL | ldA_A
  -- The arithmetic and logic family (42_alu.md)
  | incBC | incB | decB | addHL_BC | decBC | incC | decC | incDE | incD | decD | addHL_DE | decDE
  | incE | decE | incHL | incH | decH | addHL_HL | decHL | incL | decL | cpl | incIndHL | decIndHL
  | incA | decA | addA_B | addA_C | addA_D | addA_E | addA_H | addA_L | addA_indHL | addA_A | xorB
  | xorC | xorD | xorE | xorH | xorL | xorIndHL | xorA | addA_d8 | xorD8 | slaB | slaC | slaD
  | slaE | slaH | slaL | slaIndHL | slaA
  -- Control transfer (43_control.md)
  | jr_r8 | jrNZ_r8 | jrZ_r8 | jrNC_r8 | jrC_r8 | jpNZ_a16 | jp_a16 | jpZ_a16 | jpNC_a16 | jpC_a16
  | jpHL
  -- NOP and DI (44_misc.md)
  | nop | di
  deriving DecidableEq, Repr

/-- What the Decoder answers (30_encoding.md R76): a row of the table, or Undefined with the offending opcode
byte and, for a CB form, the second byte (decision D17). Decoding never fails. -/
inductive Decoded where
  | row (i : Instr)
  | undefined (opcode : Byte) (sub : Option Byte)
  deriving DecidableEq, Repr

/-- Why a list of bytes is no instruction: it is empty, it ends after the CB prefix, or it is Undefined. -/
inductive DecodeReject where
  | noByte
  | noSecondByte
  | undefined (opcode : Byte) (sub : Option Byte)
  deriving DecidableEq, Repr

end Sys2Proof
end

