-- ==== Sys2Proof/WellFormed.lean ====
section
/-! DEFINITION. Well-formedness. An `Instr` has no field, so every term of it is well formed; what can be
ill formed is a decoded-instruction record. `Record.wf` is what 30_encoding.md R74 and R75 and 40_step_operands.md
R110 to R119 say of the records the Decoder makes: nothing is written that may not be written, a jump tests a
flag, an indirect address is held in a pair, both operands have one width, and a Stacked list holds plain members. -/

namespace Sys2Proof

/-- `n` names a pair: the rows use IndByte with BC, DE and HL only (30_encoding.md R75). -/
def RegName.isPair : RegName → Bool
  | .r8 _ => false
  | .pair _ => true

/-- A flag operand, the only kind a jump condition is (40_step_operands.md R117); NotFlag(Always) occurs in no
row (30_encoding.md R75). -/
def Operand.isCondition : Operand → Bool
  | .flag _ => true
  | .notFlag .always => false
  | .notFlag _ => true
  | _ => false

/-- Indirect operands go through a pair (30_encoding.md R75). -/
def Operand.throughPair : Operand → Bool
  | .indByte n => n.isPair
  | .indWord n => n.isPair
  | _ => true

/-- An operand that data is read from: no flag and no jump target. -/
def Operand.isData : Operand → Bool
  | .rel _ => false
  | .flag _ => false
  | .notFlag _ => false
  | o => o.throughPair

/-- An operand a row writes: a register, or a byte through a pair. Writing a `rel` is a contract violation
(40_step_operands.md R116), writing Always is a fatal error (10_state.md R16), no row writes a flag (R118) and no row
writes at a fixed address (R111, R112). -/
def Operand.isDestination : Operand → Bool
  | .reg _ => true
  | .indByte n => n.isPair
  | _ => false

/-- What a jump may go to: a word of the instruction, a register pair, a displacement (43_control.md R191 to R195). -/
def Operand.isTarget : Operand → Bool
  | .absWord _ => true
  | .reg n => n.isPair
  | .rel _ => true
  | _ => false

/-- The operand is one byte wide (40_step_operands.md R110; the widths themselves are Machine/Operands.lean's). -/
def Operand.isByte : Operand → Bool
  | .absByte _ => true
  | .reg (.r8 _) => true
  | .indByte _ => true
  | _ => false

/-- A member of a Stacked list: neither a Stacked nor a Jump nor an Undefined (44_misc.md R212). -/
def Record.wfMember : Record → Bool
  | .nop => true
  | .add o1 o2 => o1.isDestination && o2.isData && o1.isByte == o2.isByte
  | .xor o1 o2 => o1.isDestination && o2.isData && o1.isByte == o2.isByte
  | .load d s => d.isDestination && s.isData && d.isByte == s.isByte
  | .jump _ _ => false
  | .inc o => o.isDestination
  | .dec o => o.isDestination
  | .shl o => o.isDestination
  | .stacked _ => false
  | .di => true
  | .cpl => true
  | .undefined _ _ _ => false

/-- A record the Decoder makes. -/
def Record.wf : Record → Bool
  | .jump c t => c.isCondition && t.isTarget
  | .stacked seq => seq.length == 2 && seq.all Record.wfMember
  | .undefined _ _ _ => true
  | r => r.wfMember

end Sys2Proof
end

