-- ==== Sys2Proof/Decode.lean ====
section
/-! DEFINITION. The Fetch/Decoder's mapping (30_encoding.md): the opcode map of R78 as the 16 by 16 grid the spec
prints, the CB forms of R79, the minimal profile of R84; for every row its form, and for every form its format,
length, record and, for the encoder, its opcode byte by the field patterns of R72. The map and the encoder are
written from two different tables of the spec, so that they check each other. -/

namespace Sys2Proof

/-! ## The opcode map (R78): one definition per line of the grid, a dash is `none` -/

/-- Opcodes 0x00 to 0x0F. -/
def opcodeLine0 : List (Option Instr) :=
  [some .nop, some .ldBC_d16, some .ldIndBC_A, some .incBC, some .incB, some .decB,
   some .ldB_d8, none, none, some .addHL_BC, some .ldA_indBC, some .decBC, some .incC,
   some .decC, some .ldC_d8, none]

/-- Opcodes 0x10 to 0x1F. -/
def opcodeLine1 : List (Option Instr) :=
  [none, some .ldDE_d16, some .ldIndDE_A, some .incDE, some .incD, some .decD, some .ldD_d8,
   none, some .jr_r8, some .addHL_DE, some .ldA_indDE, some .decDE, some .incE, some .decE,
   some .ldE_d8, none]

/-- Opcodes 0x20 to 0x2F. -/
def opcodeLine2 : List (Option Instr) :=
  [some .jrNZ_r8, some .ldHL_d16, some .ldIndHLInc_A, some .incHL, some .incH, some .decH,
   some .ldH_d8, none, some .jrZ_r8, some .addHL_HL, some .ldA_indHLInc, some .decHL,
   some .incL, some .decL, some .ldL_d8, some .cpl]

/-- Opcodes 0x30 to 0x3F. -/
def opcodeLine3 : List (Option Instr) :=
  [some .jrNC_r8, none, some .ldIndHLDec_A, none, some .incIndHL, some .decIndHL,
   some .ldIndHL_d8, none, some .jrC_r8, none, some .ldA_indHLDec, none, some .incA, some .decA,
   some .ldA_d8, none]

/-- Opcodes 0x40 to 0x4F. -/
def opcodeLine4 : List (Option Instr) :=
  [some .ldB_B, some .ldB_C, some .ldB_D, some .ldB_E, some .ldB_H, some .ldB_L,
   some .ldB_indHL, some .ldB_A, some .ldC_B, some .ldC_C, some .ldC_D, some .ldC_E,
   some .ldC_H, some .ldC_L, some .ldC_indHL, some .ldC_A]

/-- Opcodes 0x50 to 0x5F. -/
def opcodeLine5 : List (Option Instr) :=
  [some .ldD_B, some .ldD_C, some .ldD_D, some .ldD_E, some .ldD_H, some .ldD_L,
   some .ldD_indHL, some .ldD_A, some .ldE_B, some .ldE_C, some .ldE_D, some .ldE_E,
   some .ldE_H, some .ldE_L, some .ldE_indHL, some .ldE_A]

/-- Opcodes 0x60 to 0x6F. -/
def opcodeLine6 : List (Option Instr) :=
  [some .ldH_B, some .ldH_C, some .ldH_D, some .ldH_E, some .ldH_H, some .ldH_L,
   some .ldH_indHL, some .ldH_A, some .ldL_B, some .ldL_C, some .ldL_D, some .ldL_E,
   some .ldL_H, some .ldL_L, some .ldL_indHL, some .ldL_A]

/-- Opcodes 0x70 to 0x7F. -/
def opcodeLine7 : List (Option Instr) :=
  [some .ldIndHL_B, some .ldIndHL_C, some .ldIndHL_D, some .ldIndHL_E, some .ldIndHL_H,
   some .ldIndHL_L, none, some .ldIndHL_A, some .ldA_B, some .ldA_C, some .ldA_D, some .ldA_E,
   some .ldA_H, some .ldA_L, some .ldA_indHL, some .ldA_A]

/-- Opcodes 0x80 to 0x8F. -/
def opcodeLine8 : List (Option Instr) :=
  [some .addA_B, some .addA_C, some .addA_D, some .addA_E, some .addA_H, some .addA_L,
   some .addA_indHL, some .addA_A, none, none, none, none, none, none, none, none]

/-- Opcodes 0x90 to 0x9F. -/
def opcodeLine9 : List (Option Instr) :=
  [none, none, none, none, none, none, none, none, none, none, none, none, none, none, none, none]

/-- Opcodes 0xA0 to 0xAF. -/
def opcodeLineA : List (Option Instr) :=
  [none, none, none, none, none, none, none, none, some .xorB, some .xorC, some .xorD,
   some .xorE, some .xorH, some .xorL, some .xorIndHL, some .xorA]

/-- Opcodes 0xB0 to 0xBF. -/
def opcodeLineB : List (Option Instr) :=
  [none, none, none, none, none, none, none, none, none, none, none, none, none, none, none, none]

/-- Opcodes 0xC0 to 0xCF. -/
def opcodeLineC : List (Option Instr) :=
  [none, none, some .jpNZ_a16, some .jp_a16, none, none, some .addA_d8, none, none, none,
   some .jpZ_a16, none, none, none, none, none]

/-- Opcodes 0xD0 to 0xDF. -/
def opcodeLineD : List (Option Instr) :=
  [none, none, some .jpNC_a16, none, none, none, none, none, none, none, some .jpC_a16, none,
   none, none, none, none]

/-- Opcodes 0xE0 to 0xEF. -/
def opcodeLineE : List (Option Instr) :=
  [none, none, none, none, none, none, none, none, none, some .jpHL, none, none, none, none,
   some .xorD8, none]

/-- Opcodes 0xF0 to 0xFF. -/
def opcodeLineF : List (Option Instr) :=
  [none, none, none, some .di, none, none, none, none, none, none, none, none, none, none, none,
   none]

/-- The one-byte map of R78, 256 entries. -/
def opcodeMap : List (Option Instr) :=
  opcodeLine0 ++ opcodeLine1 ++ opcodeLine2 ++ opcodeLine3 ++ opcodeLine4 ++ opcodeLine5 ++ opcodeLine6 ++ opcodeLine7
    ++ opcodeLine8 ++ opcodeLine9 ++ opcodeLineA ++ opcodeLineB ++ opcodeLineC ++ opcodeLineD ++ opcodeLineE ++ opcodeLineF

/-- The eight CB forms (R79): sub-opcodes 0x20 to 0x27. -/
def cbMap : List Instr :=
  [.slaB, .slaC, .slaD, .slaE, .slaH, .slaL, .slaIndHL, .slaA]

/-- The row of a one-byte opcode in the extended profile (R78). -/
def oneByteRow (op : Byte) : Option Instr := (opcodeMap[op.toNat]?).join

/-- The row of a second byte after the prefix 0xCB (R79): `s[7:3] = 0b00100` selects one of eight. -/
def cbRow (sub : Byte) : Option Instr :=
  if sub.toNat / 8 = 4 then cbMap[sub.toNat % 8]? else none

/-- The prefix byte (R79). -/
def cbPrefix : Byte := 0xCB#8

/-- Whether the Decoder reads the byte at `pc0 + 1` itself: after the prefix, in the extended profile alone
(R79, R84). -/
def Profile.readsSecond : Profile → Byte → Bool
  | .extended, op => op == cbPrefix
  | .minimal, _ => false

/-- The table of the minimal profile (R84): three rows. -/
def minimalRow (op : Byte) : Option Instr :=
  if op = 0x00#8 then some .nop
  else if op = 0xAF#8 then some .xorA
  else if op = 0xC3#8 then some .jp_a16
  else none

/-- The Decoder (R70, R76): total. `sub` is the byte at `pc0 + 1`; it counts only where the profile reads it. -/
def decode (p : Profile) (op sub : Byte) : Decoded :=
  match p with
  | .minimal =>
    match minimalRow op with
    | some i => .row i
    | none => .undefined op none
  | .extended =>
    if op = cbPrefix then
      match cbRow sub with
      | some i => .row i
      | none => .undefined op (some sub)
    else
      match oneByteRow op with
      | some i => .row i
      | none => .undefined op none

/-! ## The rows and their forms -/

/-- The form a row is of: the "instruction" column of R78. -/
def Instr.form : Instr → Form
  | .nop => .nop
  | .ldBC_d16 => .ldPairImm .bc
  | .ldIndBC_A => .ldIndBCA
  | .incBC => .incPair .bc
  | .incB => .incReg .b
  | .decB => .decReg .b
  | .ldB_d8 => .ldRegImm .b
  | .addHL_BC => .addPair .bc
  | .ldA_indBC => .ldAIndBC
  | .decBC => .decPair .bc
  | .incC => .incReg .c
  | .decC => .decReg .c
  | .ldC_d8 => .ldRegImm .c
  | .ldDE_d16 => .ldPairImm .de
  | .ldIndDE_A => .ldIndDEA
  | .incDE => .incPair .de
  | .incD => .incReg .d
  | .decD => .decReg .d
  | .ldD_d8 => .ldRegImm .d
  | .jr_r8 => .jrRel
  | .addHL_DE => .addPair .de
  | .ldA_indDE => .ldAIndDE
  | .decDE => .decPair .de
  | .incE => .incReg .e
  | .decE => .decReg .e
  | .ldE_d8 => .ldRegImm .e
  | .jrNZ_r8 => .jrRelCC .nz
  | .ldHL_d16 => .ldPairImm .hl
  | .ldIndHLInc_A => .ldHLIncA
  | .incHL => .incPair .hl
  | .incH => .incReg .h
  | .decH => .decReg .h
  | .ldH_d8 => .ldRegImm .h
  | .jrZ_r8 => .jrRelCC .z
  | .addHL_HL => .addPair .hl
  | .ldA_indHLInc => .ldAHLInc
  | .decHL => .decPair .hl
  | .incL => .incReg .l
  | .decL => .decReg .l
  | .ldL_d8 => .ldRegImm .l
  | .cpl => .cpl
  | .jrNC_r8 => .jrRelCC .nc
  | .ldIndHLDec_A => .ldHLDecA
  | .incIndHL => .incInd
  | .decIndHL => .decInd
  | .ldIndHL_d8 => .ldIndImm
  | .jrC_r8 => .jrRelCC .c
  | .ldA_indHLDec => .ldAHLDec
  | .incA => .incReg .a
  | .decA => .decReg .a
  | .ldA_d8 => .ldRegImm .a
  | .ldB_B => .ldRegReg .b .b
  | .ldB_C => .ldRegReg .b .c
  | .ldB_D => .ldRegReg .b .d
  | .ldB_E => .ldRegReg .b .e
  | .ldB_H => .ldRegReg .b .h
  | .ldB_L => .ldRegReg .b .l
  | .ldB_indHL => .ldRegInd .b
  | .ldB_A => .ldRegReg .b .a
  | .ldC_B => .ldRegReg .c .b
  | .ldC_C => .ldRegReg .c .c
  | .ldC_D => .ldRegReg .c .d
  | .ldC_E => .ldRegReg .c .e
  | .ldC_H => .ldRegReg .c .h
  | .ldC_L => .ldRegReg .c .l
  | .ldC_indHL => .ldRegInd .c
  | .ldC_A => .ldRegReg .c .a
  | .ldD_B => .ldRegReg .d .b
  | .ldD_C => .ldRegReg .d .c
  | .ldD_D => .ldRegReg .d .d
  | .ldD_E => .ldRegReg .d .e
  | .ldD_H => .ldRegReg .d .h
  | .ldD_L => .ldRegReg .d .l
  | .ldD_indHL => .ldRegInd .d
  | .ldD_A => .ldRegReg .d .a
  | .ldE_B => .ldRegReg .e .b
  | .ldE_C => .ldRegReg .e .c
  | .ldE_D => .ldRegReg .e .d
  | .ldE_E => .ldRegReg .e .e
  | .ldE_H => .ldRegReg .e .h
  | .ldE_L => .ldRegReg .e .l
  | .ldE_indHL => .ldRegInd .e
  | .ldE_A => .ldRegReg .e .a
  | .ldH_B => .ldRegReg .h .b
  | .ldH_C => .ldRegReg .h .c
  | .ldH_D => .ldRegReg .h .d
  | .ldH_E => .ldRegReg .h .e
  | .ldH_H => .ldRegReg .h .h
  | .ldH_L => .ldRegReg .h .l
  | .ldH_indHL => .ldRegInd .h
  | .ldH_A => .ldRegReg .h .a
  | .ldL_B => .ldRegReg .l .b
  | .ldL_C => .ldRegReg .l .c
  | .ldL_D => .ldRegReg .l .d
  | .ldL_E => .ldRegReg .l .e
  | .ldL_H => .ldRegReg .l .h
  | .ldL_L => .ldRegReg .l .l
  | .ldL_indHL => .ldRegInd .l
  | .ldL_A => .ldRegReg .l .a
  | .ldIndHL_B => .ldIndReg .b
  | .ldIndHL_C => .ldIndReg .c
  | .ldIndHL_D => .ldIndReg .d
  | .ldIndHL_E => .ldIndReg .e
  | .ldIndHL_H => .ldIndReg .h
  | .ldIndHL_L => .ldIndReg .l
  | .ldIndHL_A => .ldIndReg .a
  | .ldA_B => .ldRegReg .a .b
  | .ldA_C => .ldRegReg .a .c
  | .ldA_D => .ldRegReg .a .d
  | .ldA_E => .ldRegReg .a .e
  | .ldA_H => .ldRegReg .a .h
  | .ldA_L => .ldRegReg .a .l
  | .ldA_indHL => .ldRegInd .a
  | .ldA_A => .ldRegReg .a .a
  | .addA_B => .addReg .b
  | .addA_C => .addReg .c
  | .addA_D => .addReg .d
  | .addA_E => .addReg .e
  | .addA_H => .addReg .h
  | .addA_L => .addReg .l
  | .addA_indHL => .addInd
  | .addA_A => .addReg .a
  | .xorB => .xorReg .b
  | .xorC => .xorReg .c
  | .xorD => .xorReg .d
  | .xorE => .xorReg .e
  | .xorH => .xorReg .h
  | .xorL => .xorReg .l
  | .xorIndHL => .xorInd
  | .xorA => .xorReg .a
  | .jpNZ_a16 => .jpAbsCC .nz
  | .jp_a16 => .jpAbs
  | .addA_d8 => .addImm
  | .jpZ_a16 => .jpAbsCC .z
  | .jpNC_a16 => .jpAbsCC .nc
  | .jpC_a16 => .jpAbsCC .c
  | .jpHL => .jpHL
  | .xorD8 => .xorImm
  | .di => .di
  | .slaB => .slaReg .b
  | .slaC => .slaReg .c
  | .slaD => .slaReg .d
  | .slaE => .slaReg .e
  | .slaH => .slaReg .h
  | .slaL => .slaReg .l
  | .slaIndHL => .slaInd
  | .slaA => .slaReg .a

/-- The field code of an 8-bit operand register (R72); code 6 is `(HL)`. -/
def Reg8.code : Reg8 → Nat
  | .b => 0 | .c => 1 | .d => 2 | .e => 3 | .h => 4 | .l => 5 | .a => 7

/-- The field code of a pair (R72). -/
def Pair.code : Pair → Nat
  | .bc => 0 | .de => 1 | .hl => 2

/-- The field code of a condition (R72). -/
def Cond.code : Cond → Nat
  | .nz => 0 | .z => 1 | .nc => 2 | .c => 3

/-- `cond(cc)` (R78). -/
def Cond.operand : Cond → Operand
  | .nz => .notFlag .z
  | .z => .flag .z
  | .nc => .notFlag .c
  | .c => .flag .c

/-- The format of a form (R78). -/
def Form.format : Form → Format
  | .ldRegImm _ | .ldIndImm | .addImm | .xorImm => .f2i
  | .jrRel | .jrRelCC _ => .f2r
  | .ldPairImm _ | .jpAbs | .jpAbsCC _ => .f3
  | .slaReg _ | .slaInd => .fcb
  | .ldRegReg _ _ | .ldRegInd _ | .ldIndReg _ | .ldIndBCA | .ldIndDEA | .ldAIndBC | .ldAIndDE
  | .ldHLIncA | .ldAHLInc | .ldHLDecA | .ldAHLDec | .addReg _ | .addInd | .addPair _ | .xorReg _ | .xorInd
  | .incReg _ | .incInd | .incPair _ | .decReg _ | .decInd | .decPair _ | .cpl | .jpHL | .nop | .di => .f1

/-- `consumed_bytes` of a format (R71, R77). -/
def Format.length : Format → Nat
  | .f1 => 1 | .f2i => 2 | .f2r => 2 | .f3 => 3 | .fcb => 2

/-- `consumed_bytes` of a form. -/
def Form.length (f : Form) : Nat := f.format.length

/-- Byte 0 of a form, by the field patterns of R72 (and, where R72 gives none, the opcode list of R78). -/
def Form.opcode : Form → Byte
  | .ldRegReg dst src => BitVec.ofNat 8 (0x40 + 8 * dst.code + src.code)
  | .ldRegInd dst => BitVec.ofNat 8 (0x46 + 8 * dst.code)
  | .ldIndReg s => BitVec.ofNat 8 (0x70 + s.code)
  | .ldRegImm dst => BitVec.ofNat 8 (0x06 + 8 * dst.code)
  | .ldIndImm => 0x36#8
  | .ldPairImm p => BitVec.ofNat 8 (0x01 + 16 * p.code)
  | .ldIndBCA => 0x02#8
  | .ldIndDEA => 0x12#8
  | .ldAIndBC => 0x0A#8
  | .ldAIndDE => 0x1A#8
  | .ldHLIncA => 0x22#8
  | .ldAHLInc => 0x2A#8
  | .ldHLDecA => 0x32#8
  | .ldAHLDec => 0x3A#8
  | .addReg r => BitVec.ofNat 8 (0x80 + r.code)
  | .addInd => 0x86#8
  | .addImm => 0xC6#8
  | .addPair p => BitVec.ofNat 8 (0x09 + 16 * p.code)
  | .xorReg r => BitVec.ofNat 8 (0xA8 + r.code)
  | .xorInd => 0xAE#8
  | .xorImm => 0xEE#8
  | .incReg r => BitVec.ofNat 8 (0x04 + 8 * r.code)
  | .incInd => 0x34#8
  | .incPair p => BitVec.ofNat 8 (0x03 + 16 * p.code)
  | .decReg r => BitVec.ofNat 8 (0x05 + 8 * r.code)
  | .decInd => 0x35#8
  | .decPair p => BitVec.ofNat 8 (0x0B + 16 * p.code)
  | .slaReg _ => cbPrefix
  | .slaInd => cbPrefix
  | .cpl => 0x2F#8
  | .jpAbs => 0xC3#8
  | .jpAbsCC cc => BitVec.ofNat 8 (0xC2 + 8 * cc.code)
  | .jrRel => 0x18#8
  | .jrRelCC cc => BitVec.ofNat 8 (0x20 + 8 * cc.code)
  | .jpHL => 0xE9#8
  | .nop => 0x00#8
  | .di => 0xF3#8

/-- The sub-opcode of a CB form (R72, R79). -/
def Form.subOpcode : Form → Byte
  | .slaReg r => BitVec.ofNat 8 (0x20 + r.code)
  | _ => 0x26#8

/-- The decoded record of a form (R78), `pc0` being the address of the opcode byte. -/
def Form.record (f : Form) (pc0 : Addr) : Record :=
  match f with
  | .ldRegReg dst src => .load (.reg (.r8 dst)) (.reg (.r8 src))
  | .ldRegInd dst => .load (.reg (.r8 dst)) (.indByte (.pair .hl))
  | .ldIndReg s => .load (.indByte (.pair .hl)) (.reg (.r8 s))
  | .ldRegImm dst => .load (.reg (.r8 dst)) (.absByte (pc0 + 1#16))
  | .ldIndImm => .load (.indByte (.pair .hl)) (.absByte (pc0 + 1#16))
  | .ldPairImm p => .load (.reg (.pair p)) (.absWord (pc0 + 1#16))
  | .ldIndBCA => .load (.indByte (.pair .bc)) (.reg (.r8 .a))
  | .ldIndDEA => .load (.indByte (.pair .de)) (.reg (.r8 .a))
  | .ldAIndBC => .load (.reg (.r8 .a)) (.indByte (.pair .bc))
  | .ldAIndDE => .load (.reg (.r8 .a)) (.indByte (.pair .de))
  | .ldHLIncA => .stacked [.load (.indByte (.pair .hl)) (.reg (.r8 .a)), .inc (.reg (.pair .hl))]
  | .ldAHLInc => .stacked [.load (.reg (.r8 .a)) (.indByte (.pair .hl)), .inc (.reg (.pair .hl))]
  | .ldHLDecA => .stacked [.load (.indByte (.pair .hl)) (.reg (.r8 .a)), .dec (.reg (.pair .hl))]
  | .ldAHLDec => .stacked [.load (.reg (.r8 .a)) (.indByte (.pair .hl)), .dec (.reg (.pair .hl))]
  | .addReg r => .add (.reg (.r8 .a)) (.reg (.r8 r))
  | .addInd => .add (.reg (.r8 .a)) (.indByte (.pair .hl))
  | .addImm => .add (.reg (.r8 .a)) (.absByte (pc0 + 1#16))
  | .addPair p => .add (.reg (.pair .hl)) (.reg (.pair p))
  | .xorReg r => .xor (.reg (.r8 .a)) (.reg (.r8 r))
  | .xorInd => .xor (.reg (.r8 .a)) (.indByte (.pair .hl))
  | .xorImm => .xor (.reg (.r8 .a)) (.absByte (pc0 + 1#16))
  | .incReg r => .inc (.reg (.r8 r))
  | .incInd => .inc (.indByte (.pair .hl))
  | .incPair p => .inc (.reg (.pair p))
  | .decReg r => .dec (.reg (.r8 r))
  | .decInd => .dec (.indByte (.pair .hl))
  | .decPair p => .dec (.reg (.pair p))
  | .slaReg r => .shl (.reg (.r8 r))
  | .slaInd => .shl (.indByte (.pair .hl))
  | .cpl => .cpl
  | .jpAbs => .jump (.flag .always) (.absWord (pc0 + 1#16))
  | .jpAbsCC cc => .jump cc.operand (.absWord (pc0 + 1#16))
  | .jrRel => .jump (.flag .always) (.rel (pc0 + 1#16))
  | .jrRelCC cc => .jump cc.operand (.rel (pc0 + 1#16))
  | .jpHL => .jump (.flag .always) (.reg (.pair .hl))
  | .nop => .nop
  | .di => .di

/-- `consumed_bytes` (R77; decision D17 for Undefined: 1, or 2 when the Decoder read a second byte). -/
def Decoded.length : Decoded → Nat
  | .row i => i.form.length
  | .undefined _ none => 1
  | .undefined _ (some _) => 2

/-- The decoded-instruction record (R70, R74). -/
def Decoded.record (d : Decoded) (pc0 : Addr) : Record :=
  match d with
  | .row i => i.form.record pc0
  | .undefined op sub => .undefined op pc0 sub

/-- The opcode byte a decoded instruction was read from. -/
def Decoded.opcode : Decoded → Byte
  | .row i => i.form.opcode
  | .undefined op _ => op

/-- The decoder over a list of bytes, the first at `pc0`: the instruction and its `consumed_bytes`, or the reason
there is none. -/
def decodeStream (p : Profile) (bytes : List Byte) : Except DecodeReject (Instr × Nat) :=
  match bytes with
  | [] => .error .noByte
  | op :: rest =>
    if p.readsSecond op && rest.isEmpty then .error .noSecondByte
    else
      match decode p op (rest.headD 0#8) with
      | .row i => .ok (i, i.form.length)
      | .undefined o sub => .error (.undefined o sub)

/-! ## The encoder -/

/-- The operand bytes of a format: `imm` is the operand of the assembler form, `d8` or `r8` in bits 7:0, `d16` or
`a16` whole, low byte first (R71, 20_memory.md R50). -/
def Format.operandBytes (imm : Word) : Format → List Byte
  | .f1 => []
  | .f2i => [imm.setWidth 8]
  | .f2r => [imm.setWidth 8]
  | .f3 => [imm.setWidth 8, (imm >>> 8).setWidth 8]
  | .fcb => []

/-- The bytes that select the row: one, or two for a CB form. -/
def Form.opcodeBytes (f : Form) : List Byte :=
  match f.format with
  | .fcb => [f.opcode, f.subOpcode]
  | .f1 | .f2i | .f2r | .f3 => [f.opcode]

/-- The bytes of an instruction with the operand `imm` (ignored by a form that has none), at ascending addresses. -/
def encode (i : Instr) (imm : Word) : List Byte :=
  i.form.opcodeBytes ++ i.form.format.operandBytes imm

/-! ## The host's words -/

/-- The bytes of a host word of `nbits` bits, in memory order, zeros up to the longest instruction (3 bytes).
A table row of 16 bits is a CB form and R85 numbers it with byte 0, the prefix, as the HIGH half; every other word
has its first byte in bits 7:0. DEDUCED (log 7). -/
def tableBytes (nbits w : Nat) : List Byte :=
  if nbits = 16 ∧ w / 256 % 256 = 0xCB then [cbPrefix, BitVec.ofNat 8 w, 0#8]
  else
    let v := w % 2 ^ nbits
    [BitVec.ofNat 8 v, BitVec.ofNat 8 (v / 256), BitVec.ofNat 8 (v / 65536)]

/-- The instruction the decoder reads from a host word. -/
def decodeTableWord (nbits w : Nat) : Option Instr :=
  match decodeStream Config.profile (tableBytes nbits w) with
  | .ok (i, _) => some i
  | .error _ => none

end Sys2Proof
end

