-- ==== Sys2Proof/Machine/State.lean ====
section
/-! DEFINITION. The architectural state of RustBoy CORE (10_state.md), its reset value, the types of a fatal
condition (60_exceptions.md), and the reasons a step can stop. -/

namespace Sys2Proof.Machine

/-- The bytes of one buffer: (offset, byte) pairs in the canonical form of `Memory.wf` (Machine/Ops.lean). An offset
that is not listed holds `Memory.unlisted`. -/
abbrev Memory := List Host.Cell

/-- STATUS (10_state.md R23). -/
inductive Status where
  | running | halted
  deriving DecidableEq, Repr

/-- The cause of a fatal condition (10_state.md R24; 60_exceptions.md R220 to R226); `none` is code 0. -/
inductive Cause where
  | none
  | unimplementedOpcode
  | invalidAddress
  | invalidFlagMutation
  | invalidOperandWrite
  | romRange
  deriving DecidableEq, Repr

/-- The state of the step machine a fatal condition was raised in (10_state.md R24). -/
inductive Phase where
  | fetch | decode | execute
  deriving DecidableEq, Repr

/-- The halt record HALTREC (10_state.md R24). A field with a valid bit is an Option: `none` is the valid bit clear,
and then there is no value to read (93_implementation_defined.md U8, log 6). -/
structure HaltRec where
  cause : Cause
  phase : Phase
  /-- `pc0`, the address the opcode byte was, or was to be, fetched from -/
  addr : Addr
  opcode : Option Byte
  sub : Option Byte
  faultAddr : Option Addr
  deriving DecidableEq, Repr

/-- HALTREC cleared (10_state.md R30, 70_reset_and_hazards.md R250). R30 states cause 0 and every valid bit clear;
phase 0 and addr 0 are the model's: DESIGN CHOICE (log 5). -/
def HaltRec.cleared : HaltRec :=
  { cause := .none, phase := .fetch, addr := 0x0000#16, opcode := none, sub := none, faultAddr := none }

/-- The architectural state (10_state.md, opening; R10, R15, R18, R21 to R24). -/
structure State where
  /-- register A (R10) -/
  a : Byte
  /-- register B (R10) -/
  b : Byte
  /-- register C (R10) -/
  c : Byte
  /-- register D (R10) -/
  d : Byte
  /-- register E (R10) -/
  e : Byte
  /-- register H (R10) -/
  h : Byte
  /-- register L (R10) -/
  l : Byte
  /-- the Zero flag (R15) -/
  z : Bool
  /-- the Carry flag (R15) -/
  cy : Bool
  /-- the program counter (R18) -/
  pc : Addr
  /-- ROM_LEN, the length of the ROM buffer (R21) -/
  romLen : Nat
  /-- the bytes of the ROM buffer (R21) -/
  rom : Memory
  /-- the bytes of the RAM buffer (R22) -/
  ram : Memory
  /-- STATUS (R23) -/
  status : Status
  /-- HALTREC (R24) -/
  haltRec : HaltRec
  deriving DecidableEq, Repr

/-- The machine right after RESET (10_state.md R30; 70_reset_and_hazards.md R250) with an image of 0x8000 zero
bytes. The spec's RESET takes the image as its argument: `State.resetWith` (Machine/Ops.lean) is that RESET, and this
is its value on the zero image. DESIGN CHOICE (log 1). -/
def State.reset : State :=
  { a := 0x01#8, b := 0x00#8, c := 0x13#8, d := 0x00#8, e := 0xD8#8, h := 0x01#8, l := 0x4D#8
    z := false, cy := false
    pc := Config.resetPc
    romLen := Config.resetRomLen, rom := [], ram := []
    status := .running
    haltRec := HaltRec.cleared }

/-- What a `raise` reports (00_scope.md R6; 60_exceptions.md R224): the cause, the address whose access failed
where the cause has one, the second byte where the cause has one. -/
structure Trap where
  cause : Cause
  faultAddr : Option Addr
  sub : Option Byte
  deriving DecidableEq, Repr

/-- How the Executor ends: all done, or a fatal condition raised with every write made so far kept
(40_step_operands.md R106). -/
inductive Result where
  | done (s : State)
  | raised (t : Trap) (s : State)
  deriving DecidableEq, Repr

/-- What Fetch and Decode leave for Execute: a decoded instruction, or the state halted by a failed read
(40_step_operands.md R101 to R103). -/
inductive Fetched where
  | decoded (d : Decoded)
  | halted (s : State)
  deriving DecidableEq, Repr

/-- The two backing buffers (20_memory.md R42). -/
inductive Region where
  | rom | ram
  deriving DecidableEq, Repr

/-- No step of this machine stops with a fault: a fatal condition is a next state with STATUS = Halted and a halt
record (00_scope.md R7: "There is no third outcome"; log 4). So the type has no constructor; nothing raises one, and
that is safe. -/
inductive Fault where
  deriving DecidableEq, Repr

/-- `notModelled`: an instruction that has no meaning yet, raised by `exec` alone. Every row has its meaning, so
nothing raises it; it is safe (a stop where the hardware goes on). -/
inductive Refusal where
  | notModelled (mnemonic : String)
  deriving DecidableEq, Repr

/-- What a step and a meaning answer. -/
abbrev StepOutcome := Host.Outcome State Fault Refusal

end Sys2Proof.Machine
end

