-- ==== Sys2Proof/Machine/Flags.lean ====
section
/-! DEFINITION. Flag storage, conditions and the one flag computation the hardware has (10_state.md R15 to R17;
42_alu.md R164). -/

namespace Sys2Proof.Machine

/-- `F[f]` (R15): Always is true in every state. -/
def State.flag (s : State) : FlagName → Bool
  | .z => s.z
  | .c => s.cy
  | .always => true

/-- The Zero flag's assignment. -/
def State.setZ (s : State) (v : Bool) : State := { s with z := v }

/-- The Carry flag's assignment; no instruction makes it (R17). -/
def State.setCy (s : State) (v : Bool) : State := { s with cy := v }

/-- `F[f] <- v` (R16): assigning Always raises InvalidFlagMutation. -/
def State.setFlag (s : State) (f : FlagName) (v : Bool) : Except Trap State :=
  match f with
  | .z => .ok (s.setZ v)
  | .c => .ok (s.setCy v)
  | .always => .error { cause := .invalidFlagMutation, faultAddr := none, sub := none }

/-- Whether a jump on `cc` is taken (43_control.md R192). -/
def State.condHolds (s : State) : Cond → Bool
  | .nz => !s.z
  | .z => s.z
  | .nc => !s.cy
  | .c => s.cy

/-- The Zero flag a Decrement writes: `(r[w-1:0] == 0)` for an operand of width `w` (R164). -/
def decZero (w : Nat) (r : Word) : Bool := r.setWidth w == 0#w

end Sys2Proof.Machine
end

