-- ==== Sys2Proof/Machine/Bits.lean ====
section
/-! DEFINITION. Bit fields, extension and byte order (00_scope.md R5, R6). -/

namespace Sys2Proof.Machine

/-- `v[7:0]`. -/
def lowByte (v : Word) : Byte := v.setWidth 8

/-- `v[15:8]`. -/
def highByte (v : Word) : Byte := (v >>> 8).setWidth 8

/-- `{h, l} = (h << 8) | l` (R5). -/
def composeWord (hi lo : Byte) : Word := (hi.setWidth 16 <<< 8) ||| lo.setWidth 16

/-- `zext_16` (R6). -/
def zext16 (b : Byte) : Word := b.setWidth 16

/-- `sext_16` (R6): two's complement. -/
def sext16 (b : Byte) : Word := b.signExtend 16

end Sys2Proof.Machine
end

