-- ==== Sys2Proof/Machine/Ops.lean ====
section
/-! DEFINITION. The shared operations on registers, program counter and memory, halt entry and RESET
(10_state.md, 20_memory.md, 60_exceptions.md R224, 70_reset_and_hazards.md R250). -/

namespace Sys2Proof.Machine

/-! ## The register file (10_state.md R10 to R14) -/

/-- The value of an 8-bit register. -/
def State.r8 (s : State) : Reg8 → Byte
  | .a => s.a | .b => s.b | .c => s.c | .d => s.d | .e => s.e | .h => s.h | .l => s.l

/-- The assignment of an 8-bit register. -/
def State.setR8 (s : State) (r : Reg8) (v : Byte) : State :=
  match r with
  | .a => { s with a := v }
  | .b => { s with b := v }
  | .c => { s with c := v }
  | .d => { s with d := v }
  | .e => { s with e := v }
  | .h => { s with h := v }
  | .l => { s with l := v }

/-- The first-named register of a pair, its high byte (R12). -/
def highReg : Pair → Reg8
  | .bc => .b | .de => .d | .hl => .h

/-- The second-named register of a pair, its low byte (R12). -/
def lowReg : Pair → Reg8
  | .bc => .c | .de => .e | .hl => .l

/-- The value of a pair: first-named register high (R12, R13). -/
def State.pair (s : State) (p : Pair) : Word := composeWord (s.r8 (highReg p)) (s.r8 (lowReg p))

/-- The assignment of a pair: split into its two registers (R12, R14). -/
def State.setPair (s : State) (p : Pair) (v : Word) : State :=
  (s.setR8 (highReg p) (highByte v)).setR8 (lowReg p) (lowByte v)

/-- `x[name]` (R13): an 8-bit register is zero-extended. -/
def State.readReg (s : State) : RegName → Word
  | .r8 r => zext16 (s.r8 r)
  | .pair p => s.pair p

/-- `x[name] <- v` (R14): an 8-bit register takes `v[7:0]`. -/
def State.writeReg (s : State) (n : RegName) (v : Word) : State :=
  match n with
  | .r8 r => s.setR8 r (lowByte v)
  | .pair p => s.setPair p v

/-! ## The program counter (10_state.md R18) -/

/-- `pc <- t`. -/
def State.setPc (s : State) (t : Addr) : State := { s with pc := t }

/-- Advance-PC (40_step_operands.md R104): `pc <- (pc + n) mod 2^16`. -/
def State.advance (s : State) (n : Nat) : State := s.setPc (s.pc + BitVec.ofNat 16 n)

/-! ## A buffer as a list in canonical form -/

/-- What an offset that is not listed holds: the reset value of every RAM byte (10_state.md R30); for the ROM
buffer a matter of representation, its bytes being the image's (log 2). -/
def Memory.unlisted : Byte := 0x00#8

/-- The canonical form: offsets strictly rising, no entry equal to `Memory.unlisted`. -/
def Memory.wf (m : Memory) : Bool :=
  decide (m.Pairwise fun x y => x.1 < y.1) && m.all fun x => x.2 != Memory.unlisted

/-- Every listed offset is below `n`. -/
def Memory.below (m : Memory) (n : Nat) : Bool := m.all fun x => decide (x.1 < n)

/-- The byte at an offset. -/
def Memory.read : Memory → Nat → Byte
  | [], _ => Memory.unlisted
  | (k, v) :: rest, off => if k = off then v else Memory.read rest off

/-- The buffer without the entry at an offset. -/
def Memory.erase (m : Memory) (off : Nat) : Memory := m.filter fun x => x.1 != off

/-- An entry put in its place. -/
def Memory.insert : Memory → Nat → Byte → Memory
  | [], off, v => [(off, v)]
  | (k, w) :: rest, off, v => if off < k then (off, v) :: (k, w) :: rest else (k, w) :: Memory.insert rest off v

/-- The buffer with the byte at `off` set to `v`; writing `Memory.unlisted` leaves no entry. -/
def Memory.write (m : Memory) (off : Nat) (v : Byte) : Memory :=
  if v = Memory.unlisted then m.erase off else (m.erase off).insert off v

/-- The buffer that holds `bytes` from offset `off` on. -/
def Memory.ofBytes : Nat → List Byte → Memory
  | _, [] => []
  | off, v :: rest =>
    if v = Memory.unlisted then Memory.ofBytes (off + 1) rest else (off, v) :: Memory.ofBytes (off + 1) rest

/-! ## The Memory Interface Controller (20_memory.md) -/

/-- `translateAddr` (R42): the buffer and offset an address selects, or nothing ("unmapped address"). -/
def translateAddr (addr : Addr) : Option (Region × Nat) :=
  if addr.toNat = 0x0000 then none
  else if addr.toNat < 0x8000 then some (.rom, addr.toNat)
  else if 0xC000 < addr.toNat ∧ addr.toNat < 0xE000 then some (.ram, addr.toNat - 0xC000)
  else if 0xE000 < addr.toNat ∧ addr.toNat < 0xFE00 then some (.ram, addr.toNat - 0xE000)
  else none

/-- InvalidAddress (60_exceptions.md R222). -/
def invalidAddress (addr : Addr) : Trap :=
  { cause := .invalidAddress, faultAddr := some addr, sub := none }

/-- RomRange (60_exceptions.md R226). -/
def romRange (addr : Addr) : Trap :=
  { cause := .romRange, faultAddr := some addr, sub := none }

/-- Where an access to `addr` lands, or why it fails: the first two lines of R45 and of R46. -/
def State.locate (s : State) (addr : Addr) : Except Trap (Region × Nat) :=
  match translateAddr addr with
  | none => .error (invalidAddress addr)
  | some (.rom, off) => if s.romLen ≤ off then .error (romRange addr) else .ok (.rom, off)
  | some (.ram, off) => .ok (.ram, off)

/-- The byte of a buffer. -/
def State.buffer (s : State) (loc : Region × Nat) : Byte :=
  match loc.1 with
  | .rom => s.rom.read loc.2
  | .ram => s.ram.read loc.2

/-- The assignment of a byte of a buffer. -/
def State.setBuffer (s : State) (loc : Region × Nat) (v : Byte) : State :=
  match loc.1 with
  | .rom => { s with rom := s.rom.write loc.2 v }
  | .ram => { s with ram := s.ram.write loc.2 v }

/-- `MemRead(addr, 1)` (R45). -/
def State.readByte (s : State) (addr : Addr) : Except Trap Byte :=
  match s.locate addr with
  | .error t => .error t
  | .ok loc => .ok (s.buffer loc)

/-- `MemWrite(addr, 1, v)` (R46). -/
def State.writeByte (s : State) (addr : Addr) (v : Byte) : Except Trap State :=
  match s.locate addr with
  | .error t => .error t
  | .ok loc => .ok (s.setBuffer loc v)

/-- `MemRead(addr, 2)` (R47): low byte first, `addr + 1` modulo 2^16. -/
def State.readWord (s : State) (addr : Addr) : Except Trap Word :=
  match s.readByte addr with
  | .error t => .error t
  | .ok lo =>
    match s.readByte (addr + 1#16) with
    | .error t => .error t
    | .ok hi => .ok (composeWord hi lo)

/-- `MemWrite(addr, 2, v)` (R48): the high byte at `addr + 1` first, then the low byte at `addr`; if the second
write fails the first stays. -/
def State.writeWord (s : State) (addr : Addr) (v : Word) : Result :=
  match s.writeByte (addr + 1#16) (highByte v) with
  | .error t => .raised t s
  | .ok s1 =>
    match s1.writeByte addr (lowByte v) with
    | .error t => .raised t s1
    | .ok s2 => .done s2

/-- The bytes at ascending addresses from `addr` on, as an image loader places them: a byte at an address that is
not backed goes nowhere. -/
def State.placeBytes (s : State) (addr : Addr) : List Byte → State
  | [] => s
  | v :: rest =>
    match s.writeByte addr v with
    | .error _ => State.placeBytes s (addr + 1#16) rest
    | .ok s1 => State.placeBytes s1 (addr + 1#16) rest

/-! ## Halt entry and RESET -/

/-- Halt entry (60_exceptions.md R224): STATUS and HALTREC are written and nothing else; `pc` and every earlier
write stay as the step left them. -/
def State.takeHalt (s : State) (ph : Phase) (pc0 : Addr) (opcode : Option Byte) (t : Trap) : State :=
  { s with
    status := .halted
    haltRec :=
      { cause := t.cause, phase := ph, addr := pc0, opcode := opcode, sub := t.sub, faultAddr := t.faultAddr } }

/-- RESET (70_reset_and_hazards.md R250; 10_state.md R30), the one way out of Halted (60_exceptions.md R231): every
piece of state is rebuilt from the image, nothing survives. -/
def State.resetWith (image : List Byte) : State :=
  { a := 0x01#8, b := 0x00#8, c := 0x13#8, d := 0x00#8, e := 0xD8#8, h := 0x01#8, l := 0x4D#8
    z := false, cy := false
    pc := Config.resetPc
    romLen := image.length
    rom := Memory.ofBytes 0 image
    ram := []
    status := .running
    haltRec := HaltRec.cleared }

end Sys2Proof.Machine
end

