-- ==== Sys2Proof/Machine/Operands.lean ====
section
/-! DEFINITION. The Operand Resolver (40_step_operands.md R110 to R119): `get` and `set` of every operand
descriptor, whether or not a row uses it. -/

namespace Sys2Proof.Machine

/-- The width of an operand (R110): how many bits of a written value it keeps. -/
def operandWidth : Operand → Nat
  | .absByte _ => 8
  | .absWord _ => 16
  | .reg (.r8 _) => 8
  | .reg (.pair _) => 16
  | .indByte _ => 8
  | .indWord _ => 16
  | .rel _ => 16
  | .flag _ => 1
  | .notFlag _ => 1

/-- A byte read as an operand value: zero-extended (R110, R111). -/
def getAbsByte (addr : Addr) (s : State) : Except Trap Word :=
  match s.readByte addr with
  | .error t => .error t
  | .ok v => .ok (zext16 v)

/-- `get(Rel(a))` (R116): the program counter of the moment plus the signed byte at `a`. -/
def getRel (addr : Addr) (s : State) : Except Trap Word :=
  match s.readByte addr with
  | .error t => .error t
  | .ok v => .ok (s.pc + sext16 v)

/-- `get(Flag(f))` and, negated, `get(NotFlag(f))` as 1 or 0 (R117). -/
def boolWord (b : Bool) : Word := if b then 1#16 else 0#16

/-- `get(o)` (R111 to R117). A read changes no state. -/
def getOperand (o : Operand) (s : State) : Except Trap Word :=
  match o with
  | .absByte addr => getAbsByte addr s
  | .absWord addr => s.readWord addr
  | .reg n => .ok (s.readReg n)
  | .indByte n => getAbsByte (s.readReg n) s
  | .indWord n => s.readWord (s.readReg n)
  | .rel addr => getRel addr s
  | .flag f => .ok (boolWord (s.flag f))
  | .notFlag f => .ok (boolWord (!s.flag f))

/-- A state operation that either completes or fails with the state untouched, as a Result. -/
def liftWrite (s : State) : Except Trap State → Result
  | .ok t => .done t
  | .error e => .raised e s

/-- InvalidOperandWrite (60_exceptions.md R225). -/
def invalidOperandWrite : Trap := { cause := .invalidOperandWrite, faultAddr := none, sub := none }

/-- `set(o, v)` (R111 to R116, R118). -/
def setOperand (o : Operand) (v : Word) (s : State) : Result :=
  match o with
  | .absByte addr => liftWrite s (s.writeByte addr (lowByte v))
  | .absWord addr => s.writeWord addr v
  | .reg n => .done (s.writeReg n v)
  | .indByte n => liftWrite s (s.writeByte (s.readReg n) (lowByte v))
  | .indWord n => s.writeWord (s.readReg n) v
  | .rel _ => .raised invalidOperandWrite s
  | .flag f => liftWrite s (s.setFlag f (v != 0#16))
  | .notFlag f => liftWrite s (s.setFlag f (v == 0#16))

end Sys2Proof.Machine
end

