-- ==== Sys2Proof/Machine/Executor.lean ====
section
/-! DEFINITION. The Executor: the twelve kinds of a decoded instruction, and running a record as an instruction
(41_load.md R130; 42_alu.md R160 to R166; 43_control.md R190; 44_misc.md R210 to R213). -/

namespace Sys2Proof.Machine

/-- What follows a part of an instruction that may have raised: nothing if it has (40_step_operands.md R106). -/
def Result.andThen (r : Result) (k : State → Result) : Result :=
  match r with
  | .done s => k s
  | .raised t s => .raised t s

/-- An operand read inside an instruction: a failed one raises with the state as it is. -/
def withOperand (o : Operand) (s : State) (k : Word → Result) : Result :=
  match getOperand o s with
  | .ok v => k v
  | .error t => .raised t s

/-- The two-operand kinds: `get(op1)`, `get(op2)`, `set(op1, f a b)` (40_step_operands.md R119). -/
def binary (f : Word → Word → Word) (op1 op2 : Operand) (s : State) : Result :=
  withOperand op1 s fun a => withOperand op2 s fun b => setOperand op1 (f a b) s

/-- The one-operand kinds: `get(op)`, `set(op, f v)` (40_step_operands.md R119). -/
def unary (f : Word → Word) (op : Operand) (s : State) : Result :=
  withOperand op s fun v => setOperand op (f v) s

/-- Load (R130). -/
def runLoad (dst src : Operand) (s : State) : Result :=
  withOperand src s fun v => setOperand dst v s

/-- Dec (R164): the Z write follows the operand's. -/
def runDec (op : Operand) (s : State) : Result :=
  withOperand op s fun v =>
    (setOperand op (v - 1#16) s).andThen fun t => .done (t.setZ (decZero (operandWidth op) (v - 1#16)))

/-- Jump (R190): the target is resolved only if the condition is nonzero. -/
def runJump (cond target : Operand) (s : State) : Result :=
  withOperand cond s fun c =>
    if c = 0#16 then .done s else withOperand target s fun t => .done (s.setPc t)

/-- Cpl (R166). -/
def runCpl (s : State) : Result := .done (s.setR8 .a (s.r8 .a ^^^ 0xFF#8))

/-- UnimplementedOpcode (60_exceptions.md R221); the record's own address and opcode are those halt entry reports. -/
def unimplementedOpcode (sub : Option Byte) : Trap :=
  { cause := .unimplementedOpcode, faultAddr := none, sub := sub }

mutual

/-- The Executor on one record (30_encoding.md R74). -/
def execute : Record → State → Result
  | .nop, s => .done s
  | .add op1 op2, s => binary (· + ·) op1 op2 s
  | .xor op1 op2, s => binary (· ^^^ ·) op1 op2 s
  | .load dst src, s => runLoad dst src s
  | .jump cond target, s => runJump cond target s
  | .inc op, s => unary (· + 1#16) op s
  | .dec op, s => runDec op s
  | .shl op, s => unary (· <<< 1) op s
  | .stacked seq, s => executeSeq seq s
  | .di, s => .done s
  | .cpl, s => runCpl s
  | .undefined _ _ sub, s => .raised (unimplementedOpcode sub) s
  termination_by structural r => r

/-- The members of a Stacked list in order; a fault stops the list (44_misc.md R212). -/
def executeSeq : List Record → State → Result
  | [], s => .done s
  | r :: rest, s => (execute r s).andThen fun t => executeSeq rest t
  termination_by structural rs => rs

end

/-- The end of Execute as the outcome of the step: a raised condition is halt entry in phase Execute
(40_step_operands.md R106). -/
def finish (pc0 : Addr) (op : Byte) : Result → StepOutcome
  | .done t => .next t
  | .raised trap t => .next (t.takeHalt .execute pc0 (some op) trap)

/-- Advance-PC and Execute of a decoded record (40_step_operands.md R104 to R107); `s` is the state Fetch and Decode
saw, its `pc` is `pc0` (log 8). -/
def runRecord (op : Byte) (n : Nat) (r : Record) (s : State) : StepOutcome :=
  finish s.pc op (execute r (s.advance n))

/-- Advance-PC and Execute of a form of the table. -/
def runForm (f : Form) (s : State) : StepOutcome := runRecord f.opcode f.length (f.record s.pc) s

/-- Advance-PC and Execute of an Undefined opcode (44_misc.md R213). -/
def runUndefined (op : Byte) (sub : Option Byte) (s : State) : StepOutcome :=
  runRecord op (Decoded.undefined op sub).length ((Decoded.undefined op sub).record s.pc) s

end Sys2Proof.Machine
end

