-- ==== Sys2Proof/Machine/Alu.lean ====
section
/-! DEFINITION. 42_alu.md: the arithmetic and logic family. Each meaning is the decoded record of its row, run by
the Executor; only DEC writes a flag. -/

namespace Sys2Proof.Machine

/-- INC BC, byte 03 (R176). -/
def execIncBC (s : State) : StepOutcome := runForm (.incPair .bc) s

/-- INC B, byte 04 (R174). -/
def execIncB (s : State) : StepOutcome := runForm (.incReg .b) s

/-- DEC B, byte 05 (R177). -/
def execDecB (s : State) : StepOutcome := runForm (.decReg .b) s

/-- ADD HL,BC, byte 09 (R170). -/
def execAddHL_BC (s : State) : StepOutcome := runForm (.addPair .bc) s

/-- DEC BC, byte 0B (R179). -/
def execDecBC (s : State) : StepOutcome := runForm (.decPair .bc) s

/-- INC C, byte 0C (R174). -/
def execIncC (s : State) : StepOutcome := runForm (.incReg .c) s

/-- DEC C, byte 0D (R177). -/
def execDecC (s : State) : StepOutcome := runForm (.decReg .c) s

/-- INC DE, byte 13 (R176). -/
def execIncDE (s : State) : StepOutcome := runForm (.incPair .de) s

/-- INC D, byte 14 (R174). -/
def execIncD (s : State) : StepOutcome := runForm (.incReg .d) s

/-- DEC D, byte 15 (R177). -/
def execDecD (s : State) : StepOutcome := runForm (.decReg .d) s

/-- ADD HL,DE, byte 19 (R170). -/
def execAddHL_DE (s : State) : StepOutcome := runForm (.addPair .de) s

/-- DEC DE, byte 1B (R179). -/
def execDecDE (s : State) : StepOutcome := runForm (.decPair .de) s

/-- INC E, byte 1C (R174). -/
def execIncE (s : State) : StepOutcome := runForm (.incReg .e) s

/-- DEC E, byte 1D (R177). -/
def execDecE (s : State) : StepOutcome := runForm (.decReg .e) s

/-- INC HL, byte 23 (R176). -/
def execIncHL (s : State) : StepOutcome := runForm (.incPair .hl) s

/-- INC H, byte 24 (R174). -/
def execIncH (s : State) : StepOutcome := runForm (.incReg .h) s

/-- DEC H, byte 25 (R177). -/
def execDecH (s : State) : StepOutcome := runForm (.decReg .h) s

/-- ADD HL,HL, byte 29 (R170). -/
def execAddHL_HL (s : State) : StepOutcome := runForm (.addPair .hl) s

/-- DEC HL, byte 2B (R179). -/
def execDecHL (s : State) : StepOutcome := runForm (.decPair .hl) s

/-- INC L, byte 2C (R174). -/
def execIncL (s : State) : StepOutcome := runForm (.incReg .l) s

/-- DEC L, byte 2D (R177). -/
def execDecL (s : State) : StepOutcome := runForm (.decReg .l) s

/-- CPL, byte 2F (R182). -/
def execCpl (s : State) : StepOutcome := runForm .cpl s

/-- INC (HL), byte 34 (R175). -/
def execIncIndHL (s : State) : StepOutcome := runForm .incInd s

/-- DEC (HL), byte 35 (R178). -/
def execDecIndHL (s : State) : StepOutcome := runForm .decInd s

/-- INC A, byte 3C (R174). -/
def execIncA (s : State) : StepOutcome := runForm (.incReg .a) s

/-- DEC A, byte 3D (R177). -/
def execDecA (s : State) : StepOutcome := runForm (.decReg .a) s

/-- ADD A,B, byte 80 (R167). -/
def execAddA_B (s : State) : StepOutcome := runForm (.addReg .b) s

/-- ADD A,C, byte 81 (R167). -/
def execAddA_C (s : State) : StepOutcome := runForm (.addReg .c) s

/-- ADD A,D, byte 82 (R167). -/
def execAddA_D (s : State) : StepOutcome := runForm (.addReg .d) s

/-- ADD A,E, byte 83 (R167). -/
def execAddA_E (s : State) : StepOutcome := runForm (.addReg .e) s

/-- ADD A,H, byte 84 (R167). -/
def execAddA_H (s : State) : StepOutcome := runForm (.addReg .h) s

/-- ADD A,L, byte 85 (R167). -/
def execAddA_L (s : State) : StepOutcome := runForm (.addReg .l) s

/-- ADD A,(HL), byte 86 (R168). -/
def execAddA_indHL (s : State) : StepOutcome := runForm .addInd s

/-- ADD A,A, byte 87 (R167). -/
def execAddA_A (s : State) : StepOutcome := runForm (.addReg .a) s

/-- XOR B, byte A8 (R171). -/
def execXorB (s : State) : StepOutcome := runForm (.xorReg .b) s

/-- XOR C, byte A9 (R171). -/
def execXorC (s : State) : StepOutcome := runForm (.xorReg .c) s

/-- XOR D, byte AA (R171). -/
def execXorD (s : State) : StepOutcome := runForm (.xorReg .d) s

/-- XOR E, byte AB (R171). -/
def execXorE (s : State) : StepOutcome := runForm (.xorReg .e) s

/-- XOR H, byte AC (R171). -/
def execXorH (s : State) : StepOutcome := runForm (.xorReg .h) s

/-- XOR L, byte AD (R171). -/
def execXorL (s : State) : StepOutcome := runForm (.xorReg .l) s

/-- XOR (HL), byte AE (R172). -/
def execXorIndHL (s : State) : StepOutcome := runForm .xorInd s

/-- XOR A, byte AF (R171). -/
def execXorA (s : State) : StepOutcome := runForm (.xorReg .a) s

/-- ADD A,d8, byte C6 (R169). -/
def execAddA_d8 (s : State) : StepOutcome := runForm .addImm s

/-- XOR d8, byte EE (R173). -/
def execXorD8 (s : State) : StepOutcome := runForm .xorImm s

/-- SLA B, byte CB 20 (R180). -/
def execSlaB (s : State) : StepOutcome := runForm (.slaReg .b) s

/-- SLA C, byte CB 21 (R180). -/
def execSlaC (s : State) : StepOutcome := runForm (.slaReg .c) s

/-- SLA D, byte CB 22 (R180). -/
def execSlaD (s : State) : StepOutcome := runForm (.slaReg .d) s

/-- SLA E, byte CB 23 (R180). -/
def execSlaE (s : State) : StepOutcome := runForm (.slaReg .e) s

/-- SLA H, byte CB 24 (R180). -/
def execSlaH (s : State) : StepOutcome := runForm (.slaReg .h) s

/-- SLA L, byte CB 25 (R180). -/
def execSlaL (s : State) : StepOutcome := runForm (.slaReg .l) s

/-- SLA (HL), byte CB 26 (R181). -/
def execSlaIndHL (s : State) : StepOutcome := runForm .slaInd s

/-- SLA A, byte CB 27 (R180). -/
def execSlaA (s : State) : StepOutcome := runForm (.slaReg .a) s

end Sys2Proof.Machine
end

