-- ==== Sys2Proof/Machine/Control.lean ====
section
/-! DEFINITION. 43_control.md: control transfer. Each meaning is the decoded record of its row, run by the Executor. -/

namespace Sys2Proof.Machine

/-- JR r8, byte 18 (R193). -/
def execJr_r8 (s : State) : StepOutcome := runForm .jrRel s

/-- JR NZ,r8, byte 20 (R194). -/
def execJrNZ_r8 (s : State) : StepOutcome := runForm (.jrRelCC .nz) s

/-- JR Z,r8, byte 28 (R194). -/
def execJrZ_r8 (s : State) : StepOutcome := runForm (.jrRelCC .z) s

/-- JR NC,r8, byte 30 (R194). -/
def execJrNC_r8 (s : State) : StepOutcome := runForm (.jrRelCC .nc) s

/-- JR C,r8, byte 38 (R194). -/
def execJrC_r8 (s : State) : StepOutcome := runForm (.jrRelCC .c) s

/-- JP NZ,a16, byte C2 (R192). -/
def execJpNZ_a16 (s : State) : StepOutcome := runForm (.jpAbsCC .nz) s

/-- JP a16, byte C3 (R191). -/
def execJp_a16 (s : State) : StepOutcome := runForm .jpAbs s

/-- JP Z,a16, byte CA (R192). -/
def execJpZ_a16 (s : State) : StepOutcome := runForm (.jpAbsCC .z) s

/-- JP NC,a16, byte D2 (R192). -/
def execJpNC_a16 (s : State) : StepOutcome := runForm (.jpAbsCC .nc) s

/-- JP C,a16, byte DA (R192). -/
def execJpC_a16 (s : State) : StepOutcome := runForm (.jpAbsCC .c) s

/-- JP (HL), byte E9 (R195). -/
def execJpHL (s : State) : StepOutcome := runForm .jpHL s

end Sys2Proof.Machine
end

