-- ==== Sys2Proof/Machine/Load.lean ====
section
/-! DEFINITION. 41_load.md: the load family. Each meaning is the decoded record of its row, run by the Executor. -/

namespace Sys2Proof.Machine

/-- LD BC,d16, byte 01 (R136). -/
def execLdBC_d16 (s : State) : StepOutcome := runForm (.ldPairImm .bc) s

/-- LD (BC),A, byte 02 (R137). -/
def execLdIndBC_A (s : State) : StepOutcome := runForm .ldIndBCA s

/-- LD B,d8, byte 06 (R134). -/
def execLdB_d8 (s : State) : StepOutcome := runForm (.ldRegImm .b) s

/-- LD A,(BC), byte 0A (R139). -/
def execLdA_indBC (s : State) : StepOutcome := runForm .ldAIndBC s

/-- LD C,d8, byte 0E (R134). -/
def execLdC_d8 (s : State) : StepOutcome := runForm (.ldRegImm .c) s

/-- LD DE,d16, byte 11 (R136). -/
def execLdDE_d16 (s : State) : StepOutcome := runForm (.ldPairImm .de) s

/-- LD (DE),A, byte 12 (R138). -/
def execLdIndDE_A (s : State) : StepOutcome := runForm .ldIndDEA s

/-- LD D,d8, byte 16 (R134). -/
def execLdD_d8 (s : State) : StepOutcome := runForm (.ldRegImm .d) s

/-- LD A,(DE), byte 1A (R140). -/
def execLdA_indDE (s : State) : StepOutcome := runForm .ldAIndDE s

/-- LD E,d8, byte 1E (R134). -/
def execLdE_d8 (s : State) : StepOutcome := runForm (.ldRegImm .e) s

/-- LD HL,d16, byte 21 (R136). -/
def execLdHL_d16 (s : State) : StepOutcome := runForm (.ldPairImm .hl) s

/-- LD (HL+),A, byte 22 (R141). -/
def execLdIndHLInc_A (s : State) : StepOutcome := runForm .ldHLIncA s

/-- LD H,d8, byte 26 (R134). -/
def execLdH_d8 (s : State) : StepOutcome := runForm (.ldRegImm .h) s

/-- LD A,(HL+), byte 2A (R142). -/
def execLdA_indHLInc (s : State) : StepOutcome := runForm .ldAHLInc s

/-- LD L,d8, byte 2E (R134). -/
def execLdL_d8 (s : State) : StepOutcome := runForm (.ldRegImm .l) s

/-- LD (HL-),A, byte 32 (R143). -/
def execLdIndHLDec_A (s : State) : StepOutcome := runForm .ldHLDecA s

/-- LD (HL),d8, byte 36 (R135). -/
def execLdIndHL_d8 (s : State) : StepOutcome := runForm .ldIndImm s

/-- LD A,(HL-), byte 3A (R144). -/
def execLdA_indHLDec (s : State) : StepOutcome := runForm .ldAHLDec s

/-- LD A,d8, byte 3E (R134). -/
def execLdA_d8 (s : State) : StepOutcome := runForm (.ldRegImm .a) s

/-- LD B,B, byte 40 (R131). -/
def execLdB_B (s : State) : StepOutcome := runForm (.ldRegReg .b .b) s

/-- LD B,C, byte 41 (R131). -/
def execLdB_C (s : State) : StepOutcome := runForm (.ldRegReg .b .c) s

/-- LD B,D, byte 42 (R131). -/
def execLdB_D (s : State) : StepOutcome := runForm (.ldRegReg .b .d) s

/-- LD B,E, byte 43 (R131). -/
def execLdB_E (s : State) : StepOutcome := runForm (.ldRegReg .b .e) s

/-- LD B,H, byte 44 (R131). -/
def execLdB_H (s : State) : StepOutcome := runForm (.ldRegReg .b .h) s

/-- LD B,L, byte 45 (R131). -/
def execLdB_L (s : State) : StepOutcome := runForm (.ldRegReg .b .l) s

/-- LD B,(HL), byte 46 (R132). -/
def execLdB_indHL (s : State) : StepOutcome := runForm (.ldRegInd .b) s

/-- LD B,A, byte 47 (R131). -/
def execLdB_A (s : State) : StepOutcome := runForm (.ldRegReg .b .a) s

/-- LD C,B, byte 48 (R131). -/
def execLdC_B (s : State) : StepOutcome := runForm (.ldRegReg .c .b) s

/-- LD C,C, byte 49 (R131). -/
def execLdC_C (s : State) : StepOutcome := runForm (.ldRegReg .c .c) s

/-- LD C,D, byte 4A (R131). -/
def execLdC_D (s : State) : StepOutcome := runForm (.ldRegReg .c .d) s

/-- LD C,E, byte 4B (R131). -/
def execLdC_E (s : State) : StepOutcome := runForm (.ldRegReg .c .e) s

/-- LD C,H, byte 4C (R131). -/
def execLdC_H (s : State) : StepOutcome := runForm (.ldRegReg .c .h) s

/-- LD C,L, byte 4D (R131). -/
def execLdC_L (s : State) : StepOutcome := runForm (.ldRegReg .c .l) s

/-- LD C,(HL), byte 4E (R132). -/
def execLdC_indHL (s : State) : StepOutcome := runForm (.ldRegInd .c) s

/-- LD C,A, byte 4F (R131). -/
def execLdC_A (s : State) : StepOutcome := runForm (.ldRegReg .c .a) s

/-- LD D,B, byte 50 (R131). -/
def execLdD_B (s : State) : StepOutcome := runForm (.ldRegReg .d .b) s

/-- LD D,C, byte 51 (R131). -/
def execLdD_C (s : State) : StepOutcome := runForm (.ldRegReg .d .c) s

/-- LD D,D, byte 52 (R131). -/
def execLdD_D (s : State) : StepOutcome := runForm (.ldRegReg .d .d) s

/-- LD D,E, byte 53 (R131). -/
def execLdD_E (s : State) : StepOutcome := runForm (.ldRegReg .d .e) s

/-- LD D,H, byte 54 (R131). -/
def execLdD_H (s : State) : StepOutcome := runForm (.ldRegReg .d .h) s

/-- LD D,L, byte 55 (R131). -/
def execLdD_L (s : State) : StepOutcome := runForm (.ldRegReg .d .l) s

/-- LD D,(HL), byte 56 (R132). -/
def execLdD_indHL (s : State) : StepOutcome := runForm (.ldRegInd .d) s

/-- LD D,A, byte 57 (R131). -/
def execLdD_A (s : State) : StepOutcome := runForm (.ldRegReg .d .a) s

/-- LD E,B, byte 58 (R131). -/
def execLdE_B (s : State) : StepOutcome := runForm (.ldRegReg .e .b) s

/-- LD E,C, byte 59 (R131). -/
def execLdE_C (s : State) : StepOutcome := runForm (.ldRegReg .e .c) s

/-- LD E,D, byte 5A (R131). -/
def execLdE_D (s : State) : StepOutcome := runForm (.ldRegReg .e .d) s

/-- LD E,E, byte 5B (R131). -/
def execLdE_E (s : State) : StepOutcome := runForm (.ldRegReg .e .e) s

/-- LD E,H, byte 5C (R131). -/
def execLdE_H (s : State) : StepOutcome := runForm (.ldRegReg .e .h) s

/-- LD E,L, byte 5D (R131). -/
def execLdE_L (s : State) : StepOutcome := runForm (.ldRegReg .e .l) s

/-- LD E,(HL), byte 5E (R132). -/
def execLdE_indHL (s : State) : StepOutcome := runForm (.ldRegInd .e) s

/-- LD E,A, byte 5F (R131). -/
def execLdE_A (s : State) : StepOutcome := runForm (.ldRegReg .e .a) s

/-- LD H,B, byte 60 (R131). -/
def execLdH_B (s : State) : StepOutcome := runForm (.ldRegReg .h .b) s

/-- LD H,C, byte 61 (R131). -/
def execLdH_C (s : State) : StepOutcome := runForm (.ldRegReg .h .c) s

/-- LD H,D, byte 62 (R131). -/
def execLdH_D (s : State) : StepOutcome := runForm (.ldRegReg .h .d) s

/-- LD H,E, byte 63 (R131). -/
def execLdH_E (s : State) : StepOutcome := runForm (.ldRegReg .h .e) s

/-- LD H,H, byte 64 (R131). -/
def execLdH_H (s : State) : StepOutcome := runForm (.ldRegReg .h .h) s

/-- LD H,L, byte 65 (R131). -/
def execLdH_L (s : State) : StepOutcome := runForm (.ldRegReg .h .l) s

/-- LD H,(HL), byte 66 (R132). -/
def execLdH_indHL (s : State) : StepOutcome := runForm (.ldRegInd .h) s

/-- LD H,A, byte 67 (R131). -/
def execLdH_A (s : State) : StepOutcome := runForm (.ldRegReg .h .a) s

/-- LD L,B, byte 68 (R131). -/
def execLdL_B (s : State) : StepOutcome := runForm (.ldRegReg .l .b) s

/-- LD L,C, byte 69 (R131). -/
def execLdL_C (s : State) : StepOutcome := runForm (.ldRegReg .l .c) s

/-- LD L,D, byte 6A (R131). -/
def execLdL_D (s : State) : StepOutcome := runForm (.ldRegReg .l .d) s

/-- LD L,E, byte 6B (R131). -/
def execLdL_E (s : State) : StepOutcome := runForm (.ldRegReg .l .e) s

/-- LD L,H, byte 6C (R131). -/
def execLdL_H (s : State) : StepOutcome := runForm (.ldRegReg .l .h) s

/-- LD L,L, byte 6D (R131). -/
def execLdL_L (s : State) : StepOutcome := runForm (.ldRegReg .l .l) s

/-- LD L,(HL), byte 6E (R132). -/
def execLdL_indHL (s : State) : StepOutcome := runForm (.ldRegInd .l) s

/-- LD L,A, byte 6F (R131). -/
def execLdL_A (s : State) : StepOutcome := runForm (.ldRegReg .l .a) s

/-- LD (HL),B, byte 70 (R133). -/
def execLdIndHL_B (s : State) : StepOutcome := runForm (.ldIndReg .b) s

/-- LD (HL),C, byte 71 (R133). -/
def execLdIndHL_C (s : State) : StepOutcome := runForm (.ldIndReg .c) s

/-- LD (HL),D, byte 72 (R133). -/
def execLdIndHL_D (s : State) : StepOutcome := runForm (.ldIndReg .d) s

/-- LD (HL),E, byte 73 (R133). -/
def execLdIndHL_E (s : State) : StepOutcome := runForm (.ldIndReg .e) s

/-- LD (HL),H, byte 74 (R133). -/
def execLdIndHL_H (s : State) : StepOutcome := runForm (.ldIndReg .h) s

/-- LD (HL),L, byte 75 (R133). -/
def execLdIndHL_L (s : State) : StepOutcome := runForm (.ldIndReg .l) s

/-- LD (HL),A, byte 77 (R133). -/
def execLdIndHL_A (s : State) : StepOutcome := runForm (.ldIndReg .a) s

/-- LD A,B, byte 78 (R131). -/
def execLdA_B (s : State) : StepOutcome := runForm (.ldRegReg .a .b) s

/-- LD A,C, byte 79 (R131). -/
def execLdA_C (s : State) : StepOutcome := runForm (.ldRegReg .a .c) s

/-- LD A,D, byte 7A (R131). -/
def execLdA_D (s : State) : StepOutcome := runForm (.ldRegReg .a .d) s

/-- LD A,E, byte 7B (R131). -/
def execLdA_E (s : State) : StepOutcome := runForm (.ldRegReg .a .e) s

/-- LD A,H, byte 7C (R131). -/
def execLdA_H (s : State) : StepOutcome := runForm (.ldRegReg .a .h) s

/-- LD A,L, byte 7D (R131). -/
def execLdA_L (s : State) : StepOutcome := runForm (.ldRegReg .a .l) s

/-- LD A,(HL), byte 7E (R132). -/
def execLdA_indHL (s : State) : StepOutcome := runForm (.ldRegInd .a) s

/-- LD A,A, byte 7F (R131). -/
def execLdA_A (s : State) : StepOutcome := runForm (.ldRegReg .a .a) s

end Sys2Proof.Machine
end

