-- ==== Sys2Proof/Machine/Misc.lean ====
section
/-! DEFINITION. 44_misc.md: NOP and DI, which only advance the pc. -/

namespace Sys2Proof.Machine

/-- NOP, byte 00 (R210). -/
def execNop (s : State) : StepOutcome := runForm .nop s

/-- DI, byte F3 (R211). -/
def execDi (s : State) : StepOutcome := runForm .di s

end Sys2Proof.Machine
end

