-- ==== Sys2Proof/Machine/Dispatch.lean ====
section
/-! DEFINITION. The meaning of every row of spec/opcode_table.json: Advance-PC and Execute of the instruction at the
state Fetch and Decode saw (40_step_operands.md R104, R105). -/

namespace Sys2Proof.Machine

def exec (i : Instr) (s : State) : Host.Outcome State Fault Refusal :=
  match i with
  | .nop => Sys2Proof.Machine.execNop s
  | .ldBC_d16 => Sys2Proof.Machine.execLdBC_d16 s
  | .ldIndBC_A => Sys2Proof.Machine.execLdIndBC_A s
  | .incBC => Sys2Proof.Machine.execIncBC s
  | .incB => Sys2Proof.Machine.execIncB s
  | .decB => Sys2Proof.Machine.execDecB s
  | .ldB_d8 => Sys2Proof.Machine.execLdB_d8 s
  | .addHL_BC => Sys2Proof.Machine.execAddHL_BC s
  | .ldA_indBC => Sys2Proof.Machine.execLdA_indBC s
  | .decBC => Sys2Proof.Machine.execDecBC s
  | .incC => Sys2Proof.Machine.execIncC s
  | .decC => Sys2Proof.Machine.execDecC s
  | .ldC_d8 => Sys2Proof.Machine.execLdC_d8 s
  | .ldDE_d16 => Sys2Proof.Machine.execLdDE_d16 s
  | .ldIndDE_A => Sys2Proof.Machine.execLdIndDE_A s
  | .incDE => Sys2Proof.Machine.execIncDE s
  | .incD => Sys2Proof.Machine.execIncD s
  | .decD => Sys2Proof.Machine.execDecD s
  | .ldD_d8 => Sys2Proof.Machine.execLdD_d8 s
  | .jr_r8 => Sys2Proof.Machine.execJr_r8 s
  | .addHL_DE => Sys2Proof.Machine.execAddHL_DE s
  | .ldA_indDE => Sys2Proof.Machine.execLdA_indDE s
  | .decDE => Sys2Proof.Machine.execDecDE s
  | .incE => Sys2Proof.Machine.execIncE s
  | .decE => Sys2Proof.Machine.execDecE s
  | .ldE_d8 => Sys2Proof.Machine.execLdE_d8 s
  | .jrNZ_r8 => Sys2Proof.Machine.execJrNZ_r8 s
  | .ldHL_d16 => Sys2Proof.Machine.execLdHL_d16 s
  | .ldIndHLInc_A => Sys2Proof.Machine.execLdIndHLInc_A s
  | .incHL => Sys2Proof.Machine.execIncHL s
  | .incH => Sys2Proof.Machine.execIncH s
  | .decH => Sys2Proof.Machine.execDecH s
  | .ldH_d8 => Sys2Proof.Machine.execLdH_d8 s
  | .jrZ_r8 => Sys2Proof.Machine.execJrZ_r8 s
  | .addHL_HL => Sys2Proof.Machine.execAddHL_HL s
  | .ldA_indHLInc => Sys2Proof.Machine.execLdA_indHLInc s
  | .decHL => Sys2Proof.Machine.execDecHL s
  | .incL => Sys2Proof.Machine.execIncL s
  | .decL => Sys2Proof.Machine.execDecL s
  | .ldL_d8 => Sys2Proof.Machine.execLdL_d8 s
  | .cpl => Sys2Proof.Machine.execCpl s
  | .jrNC_r8 => Sys2Proof.Machine.execJrNC_r8 s
  | .ldIndHLDec_A => Sys2Proof.Machine.execLdIndHLDec_A s
  | .incIndHL => Sys2Proof.Machine.execIncIndHL s
  | .decIndHL => Sys2Proof.Machine.execDecIndHL s
  | .ldIndHL_d8 => Sys2Proof.Machine.execLdIndHL_d8 s
  | .jrC_r8 => Sys2Proof.Machine.execJrC_r8 s
  | .ldA_indHLDec => Sys2Proof.Machine.execLdA_indHLDec s
  | .incA => Sys2Proof.Machine.execIncA s
  | .decA => Sys2Proof.Machine.execDecA s
  | .ldA_d8 => Sys2Proof.Machine.execLdA_d8 s
  | .ldB_B => Sys2Proof.Machine.execLdB_B s
  | .ldB_C => Sys2Proof.Machine.execLdB_C s
  | .ldB_D => Sys2Proof.Machine.execLdB_D s
  | .ldB_E => Sys2Proof.Machine.execLdB_E s
  | .ldB_H => Sys2Proof.Machine.execLdB_H s
  | .ldB_L => Sys2Proof.Machine.execLdB_L s
  | .ldB_indHL => Sys2Proof.Machine.execLdB_indHL s
  | .ldB_A => Sys2Proof.Machine.execLdB_A s
  | .ldC_B => Sys2Proof.Machine.execLdC_B s
  | .ldC_C => Sys2Proof.Machine.execLdC_C s
  | .ldC_D => Sys2Proof.Machine.execLdC_D s
  | .ldC_E => Sys2Proof.Machine.execLdC_E s
  | .ldC_H => Sys2Proof.Machine.execLdC_H s
  | .ldC_L => Sys2Proof.Machine.execLdC_L s
  | .ldC_indHL => Sys2Proof.Machine.execLdC_indHL s
  | .ldC_A => Sys2Proof.Machine.execLdC_A s
  | .ldD_B => Sys2Proof.Machine.execLdD_B s
  | .ldD_C => Sys2Proof.Machine.execLdD_C s
  | .ldD_D => Sys2Proof.Machine.execLdD_D s
  | .ldD_E => Sys2Proof.Machine.execLdD_E s
  | .ldD_H => Sys2Proof.Machine.execLdD_H s
  | .ldD_L => Sys2Proof.Machine.execLdD_L s
  | .ldD_indHL => Sys2Proof.Machine.execLdD_indHL s
  | .ldD_A => Sys2Proof.Machine.execLdD_A s
  | .ldE_B => Sys2Proof.Machine.execLdE_B s
  | .ldE_C => Sys2Proof.Machine.execLdE_C s
  | .ldE_D => Sys2Proof.Machine.execLdE_D s
  | .ldE_E => Sys2Proof.Machine.execLdE_E s
  | .ldE_H => Sys2Proof.Machine.execLdE_H s
  | .ldE_L => Sys2Proof.Machine.execLdE_L s
  | .ldE_indHL => Sys2Proof.Machine.execLdE_indHL s
  | .ldE_A => Sys2Proof.Machine.execLdE_A s
  | .ldH_B => Sys2Proof.Machine.execLdH_B s
  | .ldH_C => Sys2Proof.Machine.execLdH_C s
  | .ldH_D => Sys2Proof.Machine.execLdH_D s
  | .ldH_E => Sys2Proof.Machine.execLdH_E s
  | .ldH_H => Sys2Proof.Machine.execLdH_H s
  | .ldH_L => Sys2Proof.Machine.execLdH_L s
  | .ldH_indHL => Sys2Proof.Machine.execLdH_indHL s
  | .ldH_A => Sys2Proof.Machine.execLdH_A s
  | .ldL_B => Sys2Proof.Machine.execLdL_B s
  | .ldL_C => Sys2Proof.Machine.execLdL_C s
  | .ldL_D => Sys2Proof.Machine.execLdL_D s
  | .ldL_E => Sys2Proof.Machine.execLdL_E s
  | .ldL_H => Sys2Proof.Machine.execLdL_H s
  | .ldL_L => Sys2Proof.Machine.execLdL_L s
  | .ldL_indHL => Sys2Proof.Machine.execLdL_indHL s
  | .ldL_A => Sys2Proof.Machine.execLdL_A s
  | .ldIndHL_B => Sys2Proof.Machine.execLdIndHL_B s
  | .ldIndHL_C => Sys2Proof.Machine.execLdIndHL_C s
  | .ldIndHL_D => Sys2Proof.Machine.execLdIndHL_D s
  | .ldIndHL_E => Sys2Proof.Machine.execLdIndHL_E s
  | .ldIndHL_H => Sys2Proof.Machine.execLdIndHL_H s
  | .ldIndHL_L => Sys2Proof.Machine.execLdIndHL_L s
  | .ldIndHL_A => Sys2Proof.Machine.execLdIndHL_A s
  | .ldA_B => Sys2Proof.Machine.execLdA_B s
  | .ldA_C => Sys2Proof.Machine.execLdA_C s
  | .ldA_D => Sys2Proof.Machine.execLdA_D s
  | .ldA_E => Sys2Proof.Machine.execLdA_E s
  | .ldA_H => Sys2Proof.Machine.execLdA_H s
  | .ldA_L => Sys2Proof.Machine.execLdA_L s
  | .ldA_indHL => Sys2Proof.Machine.execLdA_indHL s
  | .ldA_A => Sys2Proof.Machine.execLdA_A s
  | .addA_B => Sys2Proof.Machine.execAddA_B s
  | .addA_C => Sys2Proof.Machine.execAddA_C s
  | .addA_D => Sys2Proof.Machine.execAddA_D s
  | .addA_E => Sys2Proof.Machine.execAddA_E s
  | .addA_H => Sys2Proof.Machine.execAddA_H s
  | .addA_L => Sys2Proof.Machine.execAddA_L s
  | .addA_indHL => Sys2Proof.Machine.execAddA_indHL s
  | .addA_A => Sys2Proof.Machine.execAddA_A s
  | .xorB => Sys2Proof.Machine.execXorB s
  | .xorC => Sys2Proof.Machine.execXorC s
  | .xorD => Sys2Proof.Machine.execXorD s
  | .xorE => Sys2Proof.Machine.execXorE s
  | .xorH => Sys2Proof.Machine.execXorH s
  | .xorL => Sys2Proof.Machine.execXorL s
  | .xorIndHL => Sys2Proof.Machine.execXorIndHL s
  | .xorA => Sys2Proof.Machine.execXorA s
  | .jpNZ_a16 => Sys2Proof.Machine.execJpNZ_a16 s
  | .jp_a16 => Sys2Proof.Machine.execJp_a16 s
  | .addA_d8 => Sys2Proof.Machine.execAddA_d8 s
  | .jpZ_a16 => Sys2Proof.Machine.execJpZ_a16 s
  | .jpNC_a16 => Sys2Proof.Machine.execJpNC_a16 s
  | .jpC_a16 => Sys2Proof.Machine.execJpC_a16 s
  | .jpHL => Sys2Proof.Machine.execJpHL s
  | .xorD8 => Sys2Proof.Machine.execXorD8 s
  | .di => Sys2Proof.Machine.execDi s
  | .slaB => Sys2Proof.Machine.execSlaB s
  | .slaC => Sys2Proof.Machine.execSlaC s
  | .slaD => Sys2Proof.Machine.execSlaD s
  | .slaE => Sys2Proof.Machine.execSlaE s
  | .slaH => Sys2Proof.Machine.execSlaH s
  | .slaL => Sys2Proof.Machine.execSlaL s
  | .slaIndHL => Sys2Proof.Machine.execSlaIndHL s
  | .slaA => Sys2Proof.Machine.execSlaA s

end Sys2Proof.Machine
end

