-- ==== Sys2Proof/Machine/Fetch.lean ====
section
/-! DEFINITION. Fetch and Decode (40_step_operands.md R101 to R103), and placing a host word where the next
instruction is fetched. -/

namespace Sys2Proof.Machine

/-- The byte the Decoder is handed beside the opcode: the one at `pc0 + 1` where the profile reads it
(30_encoding.md R79), else none, written 0 and not looked at. -/
def State.secondByte (p : Profile) (op : Byte) (s : State) : Except Trap Byte :=
  if p.readsSecond op then s.readByte (s.pc + 1#16) else .ok 0#8

/-- Fetch, then Decode. A failed read halts with `pc` still `pc0` (R101, R103). -/
def fetchDecode (p : Profile) (s : State) : Fetched :=
  match s.readByte s.pc with
  | .error t => .halted (s.takeHalt .fetch s.pc none t)
  | .ok op =>
    match s.secondByte p op with
    | .error t => .halted (s.takeHalt .decode s.pc (some op) t)
    | .ok sub => .decoded (decode p op sub)

/-- The bytes of a host word stored at `pc` and after. -/
def State.placeWord (s : State) (nbits w : Nat) : State := s.placeBytes s.pc (tableBytes nbits w)

end Sys2Proof.Machine
end

