-- ==== Sys2Proof/Machine/Step.lean ====
section
/-! DEFINITION. The step (40_step_operands.md R100, R107). -/

namespace Sys2Proof.Machine

/-- One STEP request with the opcode table of `p`. In Halted it changes nothing (R100); in Running it is Fetch,
Decode, Advance-PC, Execute (R107), the last two being `exec` of the row, or `runUndefined` of an opcode with none. -/
def stepWith (p : Profile) (s : State) : Host.Outcome State Fault Refusal :=
  match s.status with
  | .halted => .next s
  | .running =>
    match fetchDecode p s with
    | .halted t => .next t
    | .decoded (.row i) => exec i s
    | .decoded (.undefined op sub) => runUndefined op sub s

/-- One STEP request with the default opcode table (92_eei_decisions.md D2, log 3). -/
def step (s : State) : Host.Outcome State Fault Refusal := stepWith Config.profile s

/-- `s` with a host word's instruction stored where `step` fetches next: at `pc` and the two addresses after it. It
stands for a program loaded from outside (log 1). -/
def State.withFetchWord (s : State) (nbits w : Nat) : State := s.placeWord nbits w

end Sys2Proof.Machine
end

