-- ==== Sys2Proof/Machine/Ports.lean ====
section
/-! DEFINITION. The ports of the block (00_scope.md R8): RESET, STEP, XMEM, HALT. TRACE is not contractual and not
modelled (60_exceptions.md R244). A request is served between steps, one at a time, in the order made
(20_memory.md R56; 92_eei_decisions.md D19; log 9). -/

namespace Sys2Proof.Machine

/-- An XMEM request: the four memory calls (R56). -/
inductive XmemRequest where
  | getByte (addr : Addr)
  | getWord (addr : Addr)
  | setByte (addr : Addr) (v : Byte)
  | setWord (addr : Addr) (v : Word)
  deriving DecidableEq, Repr

/-- What XMEM answers: `ok(rdata)`, `ok` of a write, or `err(kind)` (R8). -/
inductive XmemReply where
  | byte (v : Byte)
  | word (v : Word)
  | written
  | err (kind : Cause)
  deriving DecidableEq, Repr

/-- An XMEM access (R56): the memory primitive itself, whatever STATUS is (60_exceptions.md R231). A failure is
returned and halts nothing; a failed word write may have written its first byte. -/
def State.xmem (s : State) : XmemRequest → XmemReply × State
  | .getByte addr =>
    match s.readByte addr with
    | .ok v => (.byte v, s)
    | .error t => (.err t.cause, s)
  | .getWord addr =>
    match s.readWord addr with
    | .ok v => (.word v, s)
    | .error t => (.err t.cause, s)
  | .setByte addr v =>
    match s.writeByte addr v with
    | .ok t => (.written, t)
    | .error e => (.err e.cause, s)
  | .setWord addr v =>
    match s.writeWord addr v with
    | .done t => (.written, t)
    | .raised e t => (.err e.cause, t)

/-- The HALT port: STATUS and HALTREC, read only (R8). -/
def State.haltPort (s : State) : Status × HaltRec := (s.status, s.haltRec)

/-- A request from outside. -/
inductive Request where
  | reset (image : List Byte)
  | step
  | xmem (q : XmemRequest)
  deriving DecidableEq, Repr

/-- One request served: the reply, if the port has one, and the state after it. -/
def State.serve (s : State) (q : Request) : Host.Outcome (Option XmemReply × State) Fault Refusal :=
  match q with
  | .reset image => .next (none, State.resetWith image)
  | .step =>
    match step s with
    | .next t => .next (none, t)
    | .fault r => .fault r
    | .refused r => .refused r
  | .xmem q => .next (some (s.xmem q).1, (s.xmem q).2)

/-- Requests served in the order made: the replies and the state after the last. -/
def State.serveAll (s : State) : List Request → Host.Outcome (List XmemReply × State) Fault Refusal
  | [] => .next ([], s)
  | q :: rest =>
    match s.serve q with
    | .fault r => .fault r
    | .refused r => .refused r
    | .next (reply, t) =>
      match State.serveAll t rest with
      | .fault r => .fault r
      | .refused r => .refused r
      | .next (replies, u) => .next (reply.toList ++ replies, u)

/-- The codes of HALTREC's cause field (10_state.md R24). -/
def Cause.code : Cause → BitVec 3
  | .none => 0 | .unimplementedOpcode => 1 | .invalidAddress => 2 | .invalidFlagMutation => 3
  | .invalidOperandWrite => 4 | .romRange => 5

/-- The codes of HALTREC's phase field (10_state.md R24). -/
def Phase.code : Phase → BitVec 2
  | .fetch => 0 | .decode => 1 | .execute => 2

end Sys2Proof.Machine
end

