-- ==== Sys2Proof/Safety.lean ====
section
/-! DEFINITION. What counts as a safe run, the invariant of the machine, and the spec's own tables in the terms
statements use: which registers a form writes, where it stores, which addresses its Execute phase may fail at. They
are written from the spec's tables, not from the meanings, so that a statement over both compares the two. -/

namespace Sys2Proof

open Sys2Proof.Machine

/-! ## Runs -/

/-- The machine has met no fatal condition (10_state.md R23). -/
def Safe (s : State) : Prop := s.status = .running

/-- `k` steps from `s` lead to `t`. -/
def Reaches (s : State) (k : Nat) (t : State) : Prop := core.run k s = .next t

/-- No fatal condition in the first `k` steps from `s`. -/
def SafeRun (s : State) (k : Nat) : Prop := ∀ j ≤ k, ∃ t, Reaches s j t ∧ Safe t

/-- A run from `s` that ends well by the user's END_OF_RUN (70_reset_and_hazards.md R256; 92_eei_decisions.md D23): some
state of it meets `endOfRun` and is Running. The spec fixes no END_OF_RUN, so it is an argument. -/
def EndsWell (endOfRun : State → Bool) (s : State) : Prop :=
  ∃ k t, Reaches s k t ∧ endOfRun t = true ∧ Safe t

/-- The premise ROM_LEN >= 0x8000 (20_memory.md R49): every address of the ROM window is backed. -/
def RomBacked (s : State) : Prop := 0x8000 ≤ s.romLen

/-! ## The invariant -/

/-- A halt record that a step of this machine can have written: the cause is one a program can raise
(60_exceptions.md R223, R225), and each field is valid exactly where 10_state.md R24 says it is. -/
def HaltRec.legal (r : HaltRec) : Prop :=
  (r.cause = .unimplementedOpcode ∨ r.cause = .invalidAddress ∨ r.cause = .romRange) ∧
  (r.opcode.isSome = true ↔ r.phase ≠ .fetch) ∧
  (r.faultAddr.isSome = true ↔ r.cause = .invalidAddress ∨ r.cause = .romRange) ∧
  (r.sub.isSome = true → r.cause = .unimplementedOpcode ∧ r.opcode = some 0xCB#8) ∧
  (r.cause = .unimplementedOpcode → r.phase = .execute) ∧
  (r.phase = .fetch → r.faultAddr = some r.addr) ∧
  (r.phase = .decode → r.opcode = some 0xCB#8 ∧ r.faultAddr = some (r.addr + 1#16))

/-- The invariant: both buffers are canonical and inside their size (10_state.md R21, R22), HALTREC has cause 0 while
Running and is legal while Halted (R24). -/
def Invariant (s : State) : Prop :=
  s.rom.wf = true ∧ s.ram.wf = true ∧ s.rom.below s.romLen = true ∧ s.ram.below Config.ramSize = true ∧
  (s.status = .running → s.haltRec.cause = .none) ∧
  (s.status = .halted → HaltRec.legal s.haltRec)

/-! ## What a row is -/

/-- The row a one-byte opcode selects in the extended profile, its format and its decoded record (30_encoding.md R78). -/
def OneByteRow (op : Byte) (i : Instr) (fmt : Format) (record : Addr → Record) : Prop :=
  (∀ sub, decode .extended op sub = .row i) ∧ i.form.format = fmt ∧ ∀ pc0, i.form.record pc0 = record pc0

/-- The row a CB form selects and its decoded record (30_encoding.md R79). -/
def PrefixedRow (sub : Byte) (i : Instr) (record : Addr → Record) : Prop :=
  decode .extended 0xCB#8 sub = .row i ∧ i.form.format = .fcb ∧ ∀ pc0, i.form.record pc0 = record pc0

/-- The Undefined one-byte opcodes, in the order of the table of 30_encoding.md R80. -/
def undefinedBytes : List Nat :=
  [0x07, 0x0F, 0x17, 0x1F] ++ [0x08] ++ [0x10] ++ [0x27] ++ [0x31, 0x33, 0x39, 0x3B] ++ [0x37, 0x3F] ++ [0x76]
    ++ (List.range 8).map (0x88 + ·) ++ (List.range 16).map (0x90 + ·) ++ (List.range 8).map (0xA0 + ·)
    ++ (List.range 8).map (0xB0 + ·) ++ (List.range 8).map (0xB8 + ·)
    ++ [0xC0, 0xC8, 0xD0, 0xD8, 0xC9, 0xD9] ++ [0xC1, 0xD1, 0xE1, 0xF1, 0xC5, 0xD5, 0xE5, 0xF5]
    ++ [0xC4, 0xCC, 0xD4, 0xDC, 0xCD] ++ [0xC7, 0xCF, 0xD7, 0xDF, 0xE7, 0xEF, 0xF7, 0xFF]
    ++ [0xCE, 0xD6, 0xDE, 0xE6, 0xF6, 0xFE] ++ [0xE0, 0xF0, 0xE2, 0xF2] ++ [0xE8, 0xF8, 0xF9] ++ [0xEA, 0xFA]
    ++ [0xFB] ++ [0xD3, 0xDB, 0xDD, 0xE3, 0xE4, 0xEB, 0xEC, 0xED, 0xF4, 0xFC, 0xFD]

/-! ## What a form touches -/

/-- The 8-bit registers a form writes (10_state.md R31 and the rule of each form). -/
def Form.destRegs : Form → List Reg8
  | .ldRegReg dst _ => [dst]
  | .ldRegInd dst => [dst]
  | .ldRegImm dst => [dst]
  | .ldPairImm p => [highReg p, lowReg p]
  | .ldAIndBC | .ldAIndDE => [.a]
  | .ldHLIncA | .ldHLDecA => [.h, .l]
  | .ldAHLInc | .ldAHLDec => [.a, .h, .l]
  | .addReg _ | .addInd | .addImm | .xorReg _ | .xorInd | .xorImm | .cpl => [.a]
  | .addPair _ => [.h, .l]
  | .incReg r | .decReg r | .slaReg r => [r]
  | .incPair p | .decPair p => [highReg p, lowReg p]
  | .ldIndReg _ | .ldIndImm | .ldIndBCA | .ldIndDEA | .incInd | .decInd | .slaInd => []
  | .jpAbs | .jpAbsCC _ | .jrRel | .jrRelCC _ | .jpHL | .nop | .di => []

/-- The forms that write Z: those with a Decrement in them (10_state.md R17). -/
def Form.writesZ : Form → Bool
  | .decReg _ | .decInd | .decPair _ | .ldHLDecA | .ldAHLDec => true
  | .ldRegReg _ _ | .ldRegInd _ | .ldIndReg _ | .ldRegImm _ | .ldIndImm | .ldPairImm _ | .ldIndBCA | .ldIndDEA
  | .ldAIndBC | .ldAIndDE | .ldHLIncA | .ldAHLInc | .addReg _ | .addInd | .addImm | .addPair _ | .xorReg _ | .xorInd
  | .xorImm | .incReg _ | .incInd | .incPair _ | .slaReg _ | .slaInd | .cpl | .jpAbs | .jpAbsCC _ | .jrRel
  | .jrRelCC _ | .jpHL | .nop | .di => false

/-- The byte a form stores to, if it stores (20_memory.md R61): the address in HL, BC or DE when the instruction begins,
read by the register read the meaning's operand uses. -/
def Form.storeAddr (f : Form) (s : State) : Option Addr :=
  match f with
  | .ldIndReg _ | .ldIndImm | .ldHLIncA | .ldHLDecA | .incInd | .decInd | .slaInd => some (s.readReg (.pair .hl))
  | .ldIndBCA => some (s.readReg (.pair .bc))
  | .ldIndDEA => some (s.readReg (.pair .de))
  | .ldRegReg _ _ | .ldRegInd _ | .ldRegImm _ | .ldPairImm _ | .ldAIndBC | .ldAIndDE | .ldAHLInc | .ldAHLDec
  | .addReg _ | .addInd | .addImm | .addPair _ | .xorReg _ | .xorInd | .xorImm | .incReg _ | .incPair _ | .decReg _
  | .decPair _ | .slaReg _ | .cpl | .jpAbs | .jpAbsCC _ | .jrRel | .jrRelCC _ | .jpHL | .nop | .di => none

/-- The forms of the Jump kind, the only ones that write pc in Execute (10_state.md R19). -/
def Form.isJump : Form → Bool
  | .jpAbs | .jpAbsCC _ | .jrRel | .jrRelCC _ | .jpHL => true
  | .ldRegReg _ _ | .ldRegInd _ | .ldIndReg _ | .ldRegImm _ | .ldIndImm | .ldPairImm _ | .ldIndBCA | .ldIndDEA
  | .ldAIndBC | .ldAIndDE | .ldHLIncA | .ldAHLInc | .ldHLDecA | .ldAHLDec | .addReg _ | .addInd | .addImm | .addPair _
  | .xorReg _ | .xorInd | .xorImm | .incReg _ | .incInd | .incPair _ | .decReg _ | .decInd | .decPair _ | .slaReg _
  | .slaInd | .cpl | .nop | .di => false

/-- The addresses the Execute phase of a form accesses, in order: those a fatal condition of it can name
(60_exceptions.md R227; 20_memory.md R61). `s` is the state when the step begins. -/
def Form.accessAddrs (f : Form) (s : State) : List Addr :=
  match f with
  | .ldRegImm _ | .addImm | .xorImm | .jrRel => [s.pc + 1#16]
  | .ldIndImm => [s.pc + 1#16, s.pair .hl]
  | .ldPairImm _ | .jpAbs => [s.pc + 1#16, s.pc + 2#16]
  | .jpAbsCC cc => if s.condHolds cc then [s.pc + 1#16, s.pc + 2#16] else []
  | .jrRelCC cc => if s.condHolds cc then [s.pc + 1#16] else []
  | .ldRegInd _ | .ldIndReg _ | .ldHLIncA | .ldAHLInc | .ldHLDecA | .ldAHLDec | .addInd | .xorInd | .incInd | .decInd
  | .slaInd => [s.pair .hl]
  | .ldIndBCA | .ldAIndBC => [s.pair .bc]
  | .ldIndDEA | .ldAIndDE => [s.pair .de]
  | .ldRegReg _ _ | .addReg _ | .addPair _ | .xorReg _ | .incReg _ | .incPair _ | .decReg _ | .decPair _ | .slaReg _
  | .cpl | .jpHL | .nop | .di => []

end Sys2Proof
end

