-- ==== Sys2Proof/Certificates/Slice0/Obligations.lean ====
section
/-! DEFINITION. The statements for the provers. Each docstring names the rule of spec/ it formalises. `exec i s` is
Advance-PC and Execute of row `i` at the state `s` Fetch and Decode saw, so `s.pc` is `pc0` (log 8); a form's opcode
bytes are written out from its rule, in the order B, C, D, E, H, L, A of 30_encoding.md R78. -/

open Sys2Proof Sys2Proof.Machine

/-! ## Reset (10_state.md R30; 70_reset_and_hazards.md R250) -/

/-- R30: what RESET leaves, for every image. `phase` and `addr` of HALTREC are not named: R30 states no value. -/
def Obligations.ResetLeavesTheStatedValues : Prop :=
  ∀ image : List Byte,
    let s := State.resetWith image
    (s.r8 .a = 0x01#8 ∧ s.r8 .b = 0x00#8 ∧ s.r8 .c = 0x13#8 ∧ s.r8 .d = 0x00#8 ∧ s.r8 .e = 0xD8#8 ∧
      s.r8 .h = 0x01#8 ∧ s.r8 .l = 0x4D#8) ∧
    (s.pair .bc = 0x0013#16 ∧ s.pair .de = 0x00D8#16 ∧ s.pair .hl = 0x014D#16) ∧
    (s.flag .z = false ∧ s.flag .c = false ∧ s.flag .always = true) ∧
    s.pc = 0x0100#16 ∧
    (s.romLen = image.length ∧ ∀ k (h : k < image.length), s.buffer (.rom, k) = image[k]) ∧
    (∀ k < 0x2000, s.buffer (.ram, k) = 0x00#8) ∧
    s.status = .running ∧
    s.haltRec.cause = .none ∧ s.haltRec.opcode = none ∧ s.haltRec.sub = none ∧ s.haltRec.faultAddr = none

/-- The model's choice (log 1): `State.reset` is RESET with an image of 0x8000 zero bytes. -/
def Obligations.ResetIsResetOfTheZeroImage : Prop :=
  State.reset = State.resetWith (List.replicate 0x8000 0x00#8)

/-- The invariant holds after RESET with every image, `State.reset` among them. -/
def Obligations.ResetMeetsTheInvariant : Prop :=
  Invariant State.reset ∧ ∀ image : List Byte, Invariant (State.resetWith image)

/-! ## The Memory Interface Controller (20_memory.md) -/

/-- R42, R41: the whole address map. -/
def Obligations.TranslateFollowsTheAddressMap : Prop :=
  ∀ addr : Addr,
    (addr.toNat = 0x0000 → translateAddr addr = none) ∧
    (0x0001 ≤ addr.toNat ∧ addr.toNat ≤ 0x7FFF → translateAddr addr = some (.rom, addr.toNat)) ∧
    (0x8000 ≤ addr.toNat ∧ addr.toNat ≤ 0xC000 → translateAddr addr = none) ∧
    (0xC001 ≤ addr.toNat ∧ addr.toNat ≤ 0xDFFF → translateAddr addr = some (.ram, addr.toNat - 0xC000)) ∧
    (addr.toNat = 0xE000 → translateAddr addr = none) ∧
    (0xE001 ≤ addr.toNat ∧ addr.toNat ≤ 0xFDFF → translateAddr addr = some (.ram, addr.toNat - 0xE000)) ∧
    (0xFE00 ≤ addr.toNat → translateAddr addr = none)

/-- R43: the two RAM windows select one buffer: whatever is written through either alias is read through both, the
addresses from 0xDE00 to 0xDFFF have no alias, and offset 0 is reached through neither window (R43 marks the last
as derived from R42). -/
def Obligations.RamWindowsAliasOneBuffer : Prop :=
  (∀ addr mirror : Addr, 0xC000 < addr.toNat → addr.toNat < 0xE000 → 0xE000 < mirror.toNat → mirror.toNat < 0xFE00 →
    addr.toNat - 0xC000 = mirror.toNat - 0xE000 →
    ∀ s : State, s.readByte addr = s.readByte mirror ∧
      ∀ v : Byte,
        (∃ t, s.writeByte addr v = .ok t ∧ t.readByte addr = .ok v ∧ t.readByte mirror = .ok v) ∧
        (∃ t, s.writeByte mirror v = .ok t ∧ t.readByte addr = .ok v ∧ t.readByte mirror = .ok v)) ∧
  (∀ addr other : Addr, 0xDE00 ≤ addr.toNat → addr.toNat ≤ 0xDFFF → translateAddr other = translateAddr addr → other = addr) ∧
  (∀ addr : Addr, translateAddr addr ≠ some (.ram, 0))

/-- R45, R46: a byte read returns the byte of the buffer the address translates to; a byte write changes that one byte
of that one buffer and nothing else; both raise InvalidAddress at an unmapped address and RomRange beyond the image,
with the address as fault_addr. R49: only offsets 0x0001 to 0x7FFF of the image are ever reached, an access at or beyond
ROM_LEN raises RomRange and neither reads nor writes, and with ROM_LEN >= 0x8000 none does. -/
def Obligations.ByteAccessIsTranslateThenAccess : Prop :=
  (∀ (s : State) (addr : Addr) (v : Byte),
     (translateAddr addr = none →
       s.readByte addr = .error { cause := .invalidAddress, faultAddr := some addr, sub := none } ∧
       s.writeByte addr v = .error { cause := .invalidAddress, faultAddr := some addr, sub := none }) ∧
     (∀ off, translateAddr addr = some (.rom, off) → s.romLen ≤ off →
       s.readByte addr = .error { cause := .romRange, faultAddr := some addr, sub := none } ∧
       s.writeByte addr v = .error { cause := .romRange, faultAddr := some addr, sub := none }) ∧
     (∀ region off, translateAddr addr = some (region, off) → (region = .rom → off < s.romLen) →
       s.readByte addr = .ok (s.buffer (region, off)) ∧
       ∃ t, s.writeByte addr v = .ok t ∧
         (∀ k, t.buffer k = if k = (region, off) then v else s.buffer k) ∧
         (∀ r, t.r8 r = s.r8 r) ∧ t.z = s.z ∧ t.cy = s.cy ∧ t.pc = s.pc ∧ t.romLen = s.romLen ∧
         t.status = s.status ∧ t.haltRec = s.haltRec)) ∧
  (∀ (addr : Addr) (off : Nat), translateAddr addr = some (.rom, off) → 1 ≤ off ∧ off < 0x8000) ∧
  (∀ (s : State) (addr : Addr) (v : Byte), 0x0001 ≤ addr.toNat → addr.toNat < 0x8000 → s.romLen ≤ addr.toNat →
    s.readByte addr = .error { cause := .romRange, faultAddr := some addr, sub := none } ∧
    s.writeByte addr v = .error { cause := .romRange, faultAddr := some addr, sub := none }) ∧
  (∀ (s : State) (addr : Addr) (t : Trap), RomBacked s → s.readByte addr = .error t →
    t = { cause := .invalidAddress, faultAddr := some addr, sub := none })

/-- R46, R59: a byte written is what every later read, operand read or instruction fetch of any address that selects
it returns, and every other address reads as before. -/
def Obligations.WrittenByteIsReadAndFetched : Prop :=
  ∀ (s t : State) (addr : Addr) (v : Byte), s.writeByte addr v = .ok t →
    (∀ k, translateAddr k = translateAddr addr → t.readByte k = .ok v ∧ getOperand (.absByte k) t = .ok (zext16 v)) ∧
    (∀ k, translateAddr k ≠ translateAddr addr → t.readByte k = s.readByte k) ∧
    (∀ p k, translateAddr k = translateAddr addr → p.readsSecond v = false →
      fetchDecode p (t.setPc k) = .decoded (decode p v 0#8))

/-- R47: a word read is two byte reads, low byte first, little-endian; it fails with the first byte that fails; with a
mapped first byte and a backed ROM it fails exactly at 0x7FFF, 0xDFFF and 0xFDFF (R47 marks that list as derived
from R42). -/
def Obligations.WordReadIsLittleEndian : Prop :=
  ∀ (s : State) (addr : Addr),
    (∀ lo hi, s.readByte addr = .ok lo → s.readByte (addr + 1#16) = .ok hi →
      ∃ w, s.readWord addr = .ok w ∧ w.toNat = 256 * hi.toNat + lo.toNat) ∧
    (∀ t, s.readByte addr = .error t → s.readWord addr = .error t) ∧
    (∀ lo t, s.readByte addr = .ok lo → s.readByte (addr + 1#16) = .error t → s.readWord addr = .error t) ∧
    (∀ lo, RomBacked s → s.readByte addr = .ok lo →
      ((∃ t, s.readWord addr = .error t) ↔ addr = 0x7FFF#16 ∨ addr = 0xDFFF#16 ∨ addr = 0xFDFF#16))

/-- R48: a word write puts the high byte at `addr + 1` first, then the low byte at `addr`; both mapped, the word reads
back; a failure of the first write leaves the second undone, a failure of the second leaves the first done. However it
ends, nothing but the buffers has changed. -/
def Obligations.WordWriteHighByteFirstNoRollback : Prop :=
  ∀ (s : State) (addr : Addr) (v : Word),
    (∀ lo hi, s.readByte addr = .ok lo → s.readByte (addr + 1#16) = .ok hi →
      ∃ t, s.writeWord addr v = .done t ∧ t.readWord addr = .ok v ∧
        ∀ k, translateAddr k ≠ translateAddr addr → translateAddr k ≠ translateAddr (addr + 1#16) → t.readByte k = s.readByte k) ∧
    (∀ e, s.readByte (addr + 1#16) = .error e → s.writeWord addr v = .raised e s) ∧
    (∀ hi e, s.readByte (addr + 1#16) = .ok hi → s.readByte addr = .error e →
      ∃ t, s.writeByte (addr + 1#16) (highByte v) = .ok t ∧ s.writeWord addr v = .raised e t) ∧
    (∀ t, (s.writeWord addr v = .done t ∨ ∃ e, s.writeWord addr v = .raised e t) →
      (∀ r, t.r8 r = s.r8 r) ∧ t.z = s.z ∧ t.cy = s.cy ∧ t.pc = s.pc ∧ t.romLen = s.romLen ∧
      t.status = s.status ∧ t.haltRec = s.haltRec)

/-- R56: an XMEM access is the memory primitive; it works whatever STATUS is, a failing one answers the error and
halts nothing, and a failing word write may have written its high byte. No access changes anything but the buffers. -/
def Obligations.XmemServesThePrimitivesAndNeverHalts : Prop :=
  ∀ (s : State),
    (∀ q, (s.xmem q).2.status = s.status ∧ (s.xmem q).2.haltRec = s.haltRec ∧ (s.xmem q).2.pc = s.pc ∧
      (s.xmem q).2.z = s.z ∧ (s.xmem q).2.cy = s.cy ∧ (s.xmem q).2.romLen = s.romLen ∧
      ∀ r, (s.xmem q).2.r8 r = s.r8 r) ∧
    (∀ addr v, s.readByte addr = .ok v → s.xmem (.getByte addr) = (.byte v, s)) ∧
    (∀ addr e, s.readByte addr = .error e → s.xmem (.getByte addr) = (.err e.cause, s) ∧
      ∀ v, s.xmem (.setByte addr v) = (.err e.cause, s)) ∧
    (∀ addr v, s.readWord addr = .ok v → s.xmem (.getWord addr) = (.word v, s)) ∧
    (∀ addr e, s.readWord addr = .error e → s.xmem (.getWord addr) = (.err e.cause, s)) ∧
    (∀ addr v t, s.writeByte addr v = .ok t → s.xmem (.setByte addr v) = (.written, t)) ∧
    (∀ addr v t, s.writeWord addr v = .done t → s.xmem (.setWord addr v) = (.written, t)) ∧
    (∀ addr v e t, s.writeWord addr v = .raised e t → s.xmem (.setWord addr v) = (.err e.cause, t))

/-! ## The register file and the flags (10_state.md R13 to R16, R27) -/

/-- R13, R14, R27: reads and writes of registers and pairs: zero-extension, truncation, composition, splitting, the
round trip of a pair and the independence of an 8-bit register; a write changes nothing else. -/
def Obligations.RegisterFileReadsAndWrites : Prop :=
  (∀ (s : State) (r : Reg8), (s.readReg (.r8 r)).toNat = (s.r8 r).toNat) ∧
  (∀ (s : State),
    (s.readReg (.pair .bc)).toNat = 256 * (s.r8 .b).toNat + (s.r8 .c).toNat ∧
    (s.readReg (.pair .de)).toNat = 256 * (s.r8 .d).toNat + (s.r8 .e).toNat ∧
    (s.readReg (.pair .hl)).toNat = 256 * (s.r8 .h).toNat + (s.r8 .l).toNat) ∧
  (∀ (s : State) (r : Reg8) (v : Word),
    ((s.writeReg (.r8 r) v).r8 r).toNat = v.toNat % 256 ∧ ∀ q, q ≠ r → (s.writeReg (.r8 r) v).r8 q = s.r8 q) ∧
  (∀ (s : State) (p : Pair) (v : Word),
    (s.writeReg (.pair p) v).readReg (.pair p) = v ∧
    ∀ q, q ≠ highReg p → q ≠ lowReg p → (s.writeReg (.pair p) v).r8 q = s.r8 q) ∧
  (∀ (s : State) (n : RegName) (v : Word),
    (s.writeReg n v).z = s.z ∧ (s.writeReg n v).cy = s.cy ∧ (s.writeReg n v).pc = s.pc ∧
    (s.writeReg n v).rom = s.rom ∧ (s.writeReg n v).ram = s.ram ∧ (s.writeReg n v).romLen = s.romLen ∧
    (s.writeReg n v).status = s.status ∧ (s.writeReg n v).haltRec = s.haltRec)

/-- R15, R16: F[Z] and F[C] return what was last stored, each on its own; Always reads true and its assignment raises
InvalidFlagMutation. -/
def Obligations.FlagReadsAndWrites : Prop :=
  ∀ (s : State) (v : Bool),
    s.flag .always = true ∧
    (∃ t, s.setFlag .z v = .ok t ∧ t.flag .z = v ∧ t.flag .c = s.flag .c ∧ ∀ r, t.r8 r = s.r8 r) ∧
    (∃ t, s.setFlag .c v = .ok t ∧ t.flag .c = v ∧ t.flag .z = s.flag .z ∧ ∀ r, t.r8 r = s.r8 r) ∧
    s.setFlag .always v = .error { cause := .invalidFlagMutation, faultAddr := none, sub := none }

/-! ## The Operand Resolver (40_step_operands.md) -/

/-- R110: an operand keeps the low `width` bits of what is written through it: where `set` completes, a `get` right
after it returns those bits (of a flag operand, whether they are not all zero, R118), and a value read occupies no
more than `width` bits. -/
def Obligations.OperandSetThenGetKeepsItsWidth : Prop :=
  (∀ (o : Operand) (s : State) (v : Word), getOperand o s = .ok v → v.toNat < 2 ^ operandWidth o) ∧
  (∀ (o : Operand) (s t : State) (v : Word), setOperand o v s = .done t →
    ∃ w, getOperand o t = .ok w ∧
      w.toNat = if operandWidth o = 1 then (if v = 0#16 then 0 else 1) else v.toNat % 2 ^ operandWidth o)

/-- R114, R115, R116: an indirect operand delegates to the absolute operand at the register's value; a relative one
reads pc plus its signed byte and may not be written. R117, R118: flag operands read as 1 or 0, negated ones the other
way round; a write stores whether the value is nonzero, negated whether it is zero, and a write of Always raises
InvalidFlagMutation. -/
def Obligations.IndirectRelativeAndFlagOperands : Prop :=
  (∀ (s : State),
     (∀ n, getOperand (.indByte n) s = getOperand (.absByte (s.readReg n)) s ∧
       ∀ v, setOperand (.indByte n) v s = setOperand (.absByte (s.readReg n)) v s) ∧
     (∀ n, getOperand (.indWord n) s = getOperand (.absWord (s.readReg n)) s ∧
       ∀ v, setOperand (.indWord n) v s = setOperand (.absWord (s.readReg n)) v s) ∧
     (∀ addr d, s.readByte addr = .ok d →
       ∃ t, getOperand (.rel addr) s = .ok t ∧ (t.toNat : Int) = ((s.pc.toNat : Int) + d.toInt) % 65536) ∧
     (∀ addr e, s.readByte addr = .error e → getOperand (.rel addr) s = .error e) ∧
     (∀ addr v, setOperand (.rel addr) v s =
       .raised { cause := .invalidOperandWrite, faultAddr := none, sub := none } s)) ∧
  (∀ (s : State),
     (∀ f, getOperand (.flag f) s = .ok (if s.flag f then 1#16 else 0#16) ∧
       getOperand (.notFlag f) s = .ok (if s.flag f then 0#16 else 1#16)) ∧
     (∀ v : Word,
       setOperand (.flag .z) v s = .done { s with z := v != 0#16 } ∧
       setOperand (.notFlag .z) v s = .done { s with z := v == 0#16 } ∧
       setOperand (.flag .c) v s = .done { s with cy := v != 0#16 } ∧
       setOperand (.notFlag .c) v s = .done { s with cy := v == 0#16 } ∧
       setOperand (.flag .always) v s =
         .raised { cause := .invalidFlagMutation, faultAddr := none, sub := none } s ∧
       setOperand (.notFlag .always) v s =
         .raised { cause := .invalidFlagMutation, faultAddr := none, sub := none } s))

/-! ## The kinds (41_load.md R130; 42_alu.md R161 to R166; 43_control.md R190; 44_misc.md R212) -/

/-- R130, R161 to R165: the kinds on any operands: every read before the write, a failed read writes nothing; the flag Dec
writes is the zero test of the value the operand holds afterwards. The write of an operand that is no flag changes no
flag, whether it completes or raises; no write changes pc, and one that raises changes no register. -/
def Obligations.OperandKinds : Prop :=
  (∀ (o1 o2 : Operand) (s : State),
     (∀ v w, getOperand o1 s = .ok v → getOperand o2 s = .ok w →
       execute (.add o1 o2) s = setOperand o1 (v + w) s ∧ execute (.xor o1 o2) s = setOperand o1 (v ^^^ w) s) ∧
     (∀ e, getOperand o1 s = .error e → execute (.add o1 o2) s = .raised e s ∧ execute (.xor o1 o2) s = .raised e s) ∧
     (∀ v e, getOperand o1 s = .ok v → getOperand o2 s = .error e →
       execute (.add o1 o2) s = .raised e s ∧ execute (.xor o1 o2) s = .raised e s) ∧
     (∀ w, getOperand o2 s = .ok w → execute (.load o1 o2) s = setOperand o1 w s) ∧
     (∀ e, getOperand o2 s = .error e → execute (.load o1 o2) s = .raised e s)) ∧
  (∀ (o : Operand) (s : State),
     (∀ v, getOperand o s = .ok v →
       execute (.inc o) s = setOperand o (v + 1#16) s ∧ execute (.shl o) s = setOperand o (v <<< 1) s ∧
       (∀ t, setOperand o (v - 1#16) s = .done t → ∃ z, execute (.dec o) s = .done { t with z := z } ∧
         (z = true ↔ (v - 1#16).toNat % 2 ^ operandWidth o = 0)) ∧
       (∀ e t, setOperand o (v - 1#16) s = .raised e t → execute (.dec o) s = .raised e t)) ∧
     (∀ e, getOperand o s = .error e →
       execute (.inc o) s = .raised e s ∧ execute (.shl o) s = .raised e s ∧ execute (.dec o) s = .raised e s)) ∧
  (∀ (o : Operand) (s t : State) (v : Word),
     (setOperand o v s = .done t ∨ ∃ e, setOperand o v s = .raised e t) →
       t.pc = s.pc ∧ ((∀ f, o ≠ .flag f ∧ o ≠ .notFlag f) → t.z = s.z ∧ t.cy = s.cy)) ∧
  (∀ (o : Operand) (s t : State) (v : Word) (e : Trap), setOperand o v s = .raised e t → ∀ r, t.r8 r = s.r8 r)

/-- R190: a jump writes pc when its condition reads nonzero, and otherwise resolves no target and changes nothing. -/
def Obligations.JumpKind : Prop :=
  ∀ (cond target : Operand) (s : State) (v : Word), getOperand cond s = .ok v →
    (v = 0#16 → execute (.jump cond target) s = .done s) ∧
    (v ≠ 0#16 → (∀ t, getOperand target s = .ok t → execute (.jump cond target) s = .done { s with pc := t }) ∧
      (∀ e, getOperand target s = .error e → execute (.jump cond target) s = .raised e s))

/-- R212: the members of a Stacked list run in order, each on the state the one before it left, and a list of one member
is that member; a fault in one stops the list and leaves the earlier ones done. -/
def Obligations.StackedMembersRunInOrder : Prop :=
  (∀ s : State, execute (.stacked []) s = .done s) ∧
  (∀ (r : Record) (s : State), execute (.stacked [r]) s = execute r s) ∧
  (∀ (before after : List Record) (s t : State), execute (.stacked before) s = .done t →
    execute (.stacked (before ++ after)) s = execute (.stacked after) t ∧
    ∀ r e u, execute r t = .raised e u → execute (.stacked (before ++ r :: after)) s = .raised e u)

/-! ## The load family (41_load.md) -/

/-- R131: LD r,r'. -/
def Obligations.LoadRegisterFromRegister : Prop :=
  ∀ p ∈ [(0, Reg8.b), (1, .c), (2, .d), (3, .e), (4, .h), (5, .l), (7, .a)],
  ∀ q ∈ [(0, Reg8.b), (1, .c), (2, .d), (3, .e), (4, .h), (5, .l), (7, .a)],
  ∀ i : Instr, i.form = .ldRegReg p.2 q.2 →
    OneByteRow (BitVec.ofNat 8 (0x40 + 8 * p.1 + q.1)) i .f1 (fun _ => .load (.reg (.r8 p.2)) (.reg (.r8 q.2))) ∧
    (∀ s, exec i s = .next ((s.advance 1).setR8 p.2 (s.r8 q.2))) ∧
    (p.2 = q.2 → ∀ s, exec i s = .next (s.advance 1))

/-- R132: LD r,(HL). -/
def Obligations.LoadRegisterFromHL : Prop :=
  ∀ p ∈ [(0x46#8, Reg8.b), (0x4E#8, .c), (0x56#8, .d), (0x5E#8, .e), (0x66#8, .h), (0x6E#8, .l), (0x7E#8, .a)],
  ∀ i : Instr, i.form = .ldRegInd p.2 →
    OneByteRow p.1 i .f1 (fun _ => .load (.reg (.r8 p.2)) (.indByte (.pair .hl))) ∧
    (∀ s v, s.readByte (s.pair .hl) = .ok v → exec i s = .next ((s.advance 1).setR8 p.2 v)) ∧
    (∀ s e, s.readByte (s.pair .hl) = .error e →
      exec i s = .next ((s.advance 1).takeHalt .execute s.pc (some p.1) e))

/-- R133: LD (HL),r; 0x76 is no row. -/
def Obligations.StoreRegisterToHL : Prop :=
  (∀ p ∈ [(0x70#8, Reg8.b), (0x71#8, .c), (0x72#8, .d), (0x73#8, .e), (0x74#8, .h), (0x75#8, .l), (0x77#8, .a)],
    ∀ i : Instr, i.form = .ldIndReg p.2 →
      OneByteRow p.1 i .f1 (fun _ => .load (.indByte (.pair .hl)) (.reg (.r8 p.2))) ∧
      (∀ s t, s.writeByte (s.pair .hl) (s.r8 p.2) = .ok t → exec i s = .next (t.advance 1)) ∧
      (∀ s e, s.writeByte (s.pair .hl) (s.r8 p.2) = .error e →
        exec i s = .next ((s.advance 1).takeHalt .execute s.pc (some p.1) e))) ∧
  (∀ sub, decode .extended 0x76#8 sub = .undefined 0x76#8 none)

/-- R134: LD r,d8. -/
def Obligations.LoadRegisterImmediate : Prop :=
  ∀ p ∈ [(0x06#8, Reg8.b), (0x0E#8, .c), (0x16#8, .d), (0x1E#8, .e), (0x26#8, .h), (0x2E#8, .l), (0x3E#8, .a)],
  ∀ i : Instr, i.form = .ldRegImm p.2 →
    OneByteRow p.1 i .f2i (fun pc0 => .load (.reg (.r8 p.2)) (.absByte (pc0 + 1#16))) ∧
    (∀ s v, s.readByte (s.pc + 1#16) = .ok v → exec i s = .next ((s.advance 2).setR8 p.2 v)) ∧
    (∀ s e, s.readByte (s.pc + 1#16) = .error e →
      exec i s = .next ((s.advance 2).takeHalt .execute s.pc (some p.1) e))

/-- R135: LD (HL),d8. -/
def Obligations.StoreImmediateToHL : Prop :=
  ∀ i : Instr, i.form = .ldIndImm →
    OneByteRow 0x36#8 i .f2i (fun pc0 => .load (.indByte (.pair .hl)) (.absByte (pc0 + 1#16))) ∧
    (∀ s v t, s.readByte (s.pc + 1#16) = .ok v → s.writeByte (s.pair .hl) v = .ok t →
      exec i s = .next (t.advance 2)) ∧
    (∀ s e, s.readByte (s.pc + 1#16) = .error e →
      exec i s = .next ((s.advance 2).takeHalt .execute s.pc (some 0x36#8) e)) ∧
    (∀ s v e, s.readByte (s.pc + 1#16) = .ok v → s.writeByte (s.pair .hl) v = .error e →
      exec i s = .next ((s.advance 2).takeHalt .execute s.pc (some 0x36#8) e))

/-- R136: LD rr,d16. -/
def Obligations.LoadPairImmediate : Prop :=
  ∀ p ∈ [(0x01#8, Pair.bc), (0x11#8, .de), (0x21#8, .hl)],
  ∀ i : Instr, i.form = .ldPairImm p.2 →
    OneByteRow p.1 i .f3 (fun pc0 => .load (.reg (.pair p.2)) (.absWord (pc0 + 1#16))) ∧
    (∀ s lo hi, s.readByte (s.pc + 1#16) = .ok lo → s.readByte (s.pc + 2#16) = .ok hi →
      exec i s = .next (((s.advance 3).setR8 (highReg p.2) hi).setR8 (lowReg p.2) lo)) ∧
    (∀ s e, s.readByte (s.pc + 1#16) = .error e →
      exec i s = .next ((s.advance 3).takeHalt .execute s.pc (some p.1) e)) ∧
    (∀ s lo e, s.readByte (s.pc + 1#16) = .ok lo → s.readByte (s.pc + 2#16) = .error e →
      exec i s = .next ((s.advance 3).takeHalt .execute s.pc (some p.1) e))

/-- R137, R138, R139, R140: LD (BC),A; LD (DE),A; LD A,(BC); LD A,(DE). -/
def Obligations.AccumulatorThroughBCAndDE : Prop :=
  (∀ p ∈ [(0x02#8, Pair.bc, Form.ldIndBCA), (0x12#8, .de, .ldIndDEA)],
   ∀ i : Instr, i.form = p.2.2 →
     OneByteRow p.1 i .f1 (fun _ => .load (.indByte (.pair p.2.1)) (.reg (.r8 .a))) ∧
     (∀ s t, s.writeByte (s.pair p.2.1) (s.r8 .a) = .ok t → exec i s = .next (t.advance 1)) ∧
     (∀ s e, s.writeByte (s.pair p.2.1) (s.r8 .a) = .error e →
       exec i s = .next ((s.advance 1).takeHalt .execute s.pc (some p.1) e))) ∧
  (∀ p ∈ [(0x0A#8, Pair.bc, Form.ldAIndBC), (0x1A#8, .de, .ldAIndDE)],
   ∀ i : Instr, i.form = p.2.2 →
     OneByteRow p.1 i .f1 (fun _ => .load (.reg (.r8 .a)) (.indByte (.pair p.2.1))) ∧
     (∀ s v, s.readByte (s.pair p.2.1) = .ok v → exec i s = .next ((s.advance 1).setR8 .a v)) ∧
     (∀ s e, s.readByte (s.pair p.2.1) = .error e →
       exec i s = .next ((s.advance 1).takeHalt .execute s.pc (some p.1) e)))

/-- R141, R142: LD (HL+),A and LD A,(HL+): the access at the old HL, then HL + 1, no flag; a failed access leaves HL. -/
def Obligations.PostIncrementLoads : Prop :=
  (∀ i : Instr, i.form = .ldHLIncA →
    OneByteRow 0x22#8 i .f1
      (fun _ => .stacked [.load (.indByte (.pair .hl)) (.reg (.r8 .a)), .inc (.reg (.pair .hl))]) ∧
    (∀ s t, s.writeByte (s.pair .hl) (s.r8 .a) = .ok t →
      exec i s = .next ((t.advance 1).setPair .hl (s.pair .hl + 1#16))) ∧
    (∀ s e, s.writeByte (s.pair .hl) (s.r8 .a) = .error e →
      exec i s = .next ((s.advance 1).takeHalt .execute s.pc (some 0x22#8) e))) ∧
  (∀ i : Instr, i.form = .ldAHLInc →
    OneByteRow 0x2A#8 i .f1
      (fun _ => .stacked [.load (.reg (.r8 .a)) (.indByte (.pair .hl)), .inc (.reg (.pair .hl))]) ∧
    (∀ s v, s.readByte (s.pair .hl) = .ok v →
      exec i s = .next (((s.advance 1).setR8 .a v).setPair .hl (s.pair .hl + 1#16))) ∧
    (∀ s e, s.readByte (s.pair .hl) = .error e →
      exec i s = .next ((s.advance 1).takeHalt .execute s.pc (some 0x2A#8) e)))

/-- R143, R144: LD (HL-),A and LD A,(HL-): the access at the old HL, then HL - 1, and Z from the new HL; a failed access
leaves HL and Z. -/
def Obligations.PostDecrementLoads : Prop :=
  (∀ i : Instr, i.form = .ldHLDecA →
    OneByteRow 0x32#8 i .f1
      (fun _ => .stacked [.load (.indByte (.pair .hl)) (.reg (.r8 .a)), .dec (.reg (.pair .hl))]) ∧
    (∀ s t, s.writeByte (s.pair .hl) (s.r8 .a) = .ok t →
      exec i s = .next (((t.advance 1).setPair .hl (s.pair .hl - 1#16)).setZ (s.pair .hl == 1#16))) ∧
    (∀ s e, s.writeByte (s.pair .hl) (s.r8 .a) = .error e →
      exec i s = .next ((s.advance 1).takeHalt .execute s.pc (some 0x32#8) e))) ∧
  (∀ i : Instr, i.form = .ldAHLDec →
    OneByteRow 0x3A#8 i .f1
      (fun _ => .stacked [.load (.reg (.r8 .a)) (.indByte (.pair .hl)), .dec (.reg (.pair .hl))]) ∧
    (∀ s v, s.readByte (s.pair .hl) = .ok v →
      exec i s = .next ((((s.advance 1).setR8 .a v).setPair .hl (s.pair .hl - 1#16)).setZ (s.pair .hl == 1#16))) ∧
    (∀ s e, s.readByte (s.pair .hl) = .error e →
      exec i s = .next ((s.advance 1).takeHalt .execute s.pc (some 0x3A#8) e)))

/-! ## The arithmetic and logic family (42_alu.md) -/

/-- R167, R171: ADD A,r and XOR r: 8-bit results, no flag. -/
def Obligations.AddAndXorRegister : Prop :=
  (∀ p ∈ [(0x80#8, Reg8.b), (0x81#8, .c), (0x82#8, .d), (0x83#8, .e), (0x84#8, .h), (0x85#8, .l), (0x87#8, .a)],
    ∀ i : Instr, i.form = .addReg p.2 →
      OneByteRow p.1 i .f1 (fun _ => .add (.reg (.r8 .a)) (.reg (.r8 p.2))) ∧
      ∀ s, exec i s = .next ((s.advance 1).setR8 .a (s.r8 .a + s.r8 p.2))) ∧
  (∀ p ∈ [(0xA8#8, Reg8.b), (0xA9#8, .c), (0xAA#8, .d), (0xAB#8, .e), (0xAC#8, .h), (0xAD#8, .l), (0xAF#8, .a)],
    ∀ i : Instr, i.form = .xorReg p.2 →
      OneByteRow p.1 i .f1 (fun _ => .xor (.reg (.r8 .a)) (.reg (.r8 p.2))) ∧
      (∀ s, exec i s = .next ((s.advance 1).setR8 .a (s.r8 .a ^^^ s.r8 p.2))) ∧
      (p.2 = .a → ∀ s, exec i s = .next ((s.advance 1).setR8 .a 0x00#8)))

/-- R168, R172: ADD A,(HL) and XOR (HL). -/
def Obligations.AddAndXorFromHL : Prop :=
  ∀ p ∈ [(0x86#8, Form.addInd, Record.add, fun v w : Byte => v + w), (0xAE#8, .xorInd, .xor, fun v w => v ^^^ w)],
  ∀ i : Instr, i.form = p.2.1 →
    OneByteRow p.1 i .f1 (fun _ => p.2.2.1 (.reg (.r8 .a)) (.indByte (.pair .hl))) ∧
    (∀ s v, s.readByte (s.pair .hl) = .ok v →
      exec i s = .next ((s.advance 1).setR8 .a (p.2.2.2 (s.r8 .a) v))) ∧
    (∀ s e, s.readByte (s.pair .hl) = .error e →
      exec i s = .next ((s.advance 1).takeHalt .execute s.pc (some p.1) e))

/-- R169, R173: ADD A,d8 and XOR d8. -/
def Obligations.AddAndXorImmediate : Prop :=
  ∀ p ∈ [(0xC6#8, Form.addImm, Record.add, fun v w : Byte => v + w), (0xEE#8, .xorImm, .xor, fun v w => v ^^^ w)],
  ∀ i : Instr, i.form = p.2.1 →
    OneByteRow p.1 i .f2i (fun pc0 => p.2.2.1 (.reg (.r8 .a)) (.absByte (pc0 + 1#16))) ∧
    (∀ s v, s.readByte (s.pc + 1#16) = .ok v →
      exec i s = .next ((s.advance 2).setR8 .a (p.2.2.2 (s.r8 .a) v))) ∧
    (∀ s e, s.readByte (s.pc + 1#16) = .error e →
      exec i s = .next ((s.advance 2).takeHalt .execute s.pc (some p.1) e))

/-- R170: ADD HL,rr: a 16-bit sum, no flag. -/
def Obligations.AddPairToHL : Prop :=
  ∀ p ∈ [(0x09#8, Pair.bc), (0x19#8, .de), (0x29#8, .hl)],
  ∀ i : Instr, i.form = .addPair p.2 →
    OneByteRow p.1 i .f1 (fun _ => .add (.reg (.pair .hl)) (.reg (.pair p.2))) ∧
    ∀ s, exec i s = .next ((s.advance 1).setPair .hl (s.pair .hl + s.pair p.2))

/-- R174, R176: INC r wraps in its 8 bits, INC rr in its 16; no flag. -/
def Obligations.IncrementRegisterAndPair : Prop :=
  (∀ p ∈ [(0x04#8, Reg8.b), (0x0C#8, .c), (0x14#8, .d), (0x1C#8, .e), (0x24#8, .h), (0x2C#8, .l), (0x3C#8, .a)],
    ∀ i : Instr, i.form = .incReg p.2 →
      OneByteRow p.1 i .f1 (fun _ => .inc (.reg (.r8 p.2))) ∧
      ∀ s, exec i s = .next ((s.advance 1).setR8 p.2 (s.r8 p.2 + 1#8))) ∧
  (∀ p ∈ [(0x03#8, Pair.bc), (0x13#8, .de), (0x23#8, .hl)],
    ∀ i : Instr, i.form = .incPair p.2 →
      OneByteRow p.1 i .f1 (fun _ => .inc (.reg (.pair p.2))) ∧
      ∀ s, exec i s = .next ((s.advance 1).setPair p.2 (s.pair p.2 + 1#16)))

/-- R175, R178: INC (HL) and DEC (HL): the write cannot fault when the read succeeded; Z is written by DEC alone. -/
def Obligations.IncrementAndDecrementAtHL : Prop :=
  (∀ i : Instr, i.form = .incInd →
     OneByteRow 0x34#8 i .f1 (fun _ => .inc (.indByte (.pair .hl))) ∧
     (∀ s v, s.readByte (s.pair .hl) = .ok v →
       ∃ t, s.writeByte (s.pair .hl) (v + 1#8) = .ok t ∧ exec i s = .next (t.advance 1)) ∧
     (∀ s e, s.readByte (s.pair .hl) = .error e →
       exec i s = .next ((s.advance 1).takeHalt .execute s.pc (some 0x34#8) e))) ∧
  (∀ i : Instr, i.form = .decInd →
     OneByteRow 0x35#8 i .f1 (fun _ => .dec (.indByte (.pair .hl))) ∧
     (∀ s v, s.readByte (s.pair .hl) = .ok v →
       ∃ t, s.writeByte (s.pair .hl) (v - 1#8) = .ok t ∧ exec i s = .next ((t.advance 1).setZ (v == 1#8))) ∧
     (∀ s e, s.readByte (s.pair .hl) = .error e →
       exec i s = .next ((s.advance 1).takeHalt .execute s.pc (some 0x35#8) e)))

/-- R177, R179: DEC r and DEC rr, with Z the zero test of the register's, or the whole pair's, new value. -/
def Obligations.DecrementRegisterAndPair : Prop :=
  (∀ p ∈ [(0x05#8, Reg8.b), (0x0D#8, .c), (0x15#8, .d), (0x1D#8, .e), (0x25#8, .h), (0x2D#8, .l), (0x3D#8, .a)],
    ∀ i : Instr, i.form = .decReg p.2 →
      OneByteRow p.1 i .f1 (fun _ => .dec (.reg (.r8 p.2))) ∧
      ∀ s, exec i s = .next (((s.advance 1).setR8 p.2 (s.r8 p.2 - 1#8)).setZ (s.r8 p.2 == 1#8))) ∧
  (∀ p ∈ [(0x0B#8, Pair.bc), (0x1B#8, .de), (0x2B#8, .hl)],
    ∀ i : Instr, i.form = .decPair p.2 →
      OneByteRow p.1 i .f1 (fun _ => .dec (.reg (.pair p.2))) ∧
      ∀ s, exec i s = .next (((s.advance 1).setPair p.2 (s.pair p.2 - 1#16)).setZ (s.pair p.2 == 1#16)))

/-- R180, R181: SLA r and SLA (HL): bit 7 is lost, bit 0 is 0, no flag; a failed read of the second byte halts in Decode
with pc not advanced. -/
def Obligations.ShiftLeft : Prop :=
  (∀ p ∈ [(0x20#8, Reg8.b), (0x21#8, .c), (0x22#8, .d), (0x23#8, .e), (0x24#8, .h), (0x25#8, .l), (0x27#8, .a)],
    ∀ i : Instr, i.form = .slaReg p.2 →
      PrefixedRow p.1 i (fun _ => .shl (.reg (.r8 p.2))) ∧
      ∀ s, exec i s = .next ((s.advance 2).setR8 p.2 (s.r8 p.2 <<< 1))) ∧
  (∀ i : Instr, i.form = .slaInd →
    PrefixedRow 0x26#8 i (fun _ => .shl (.indByte (.pair .hl))) ∧
    (∀ s v, s.readByte (s.pair .hl) = .ok v →
      ∃ t, s.writeByte (s.pair .hl) (v <<< 1) = .ok t ∧ exec i s = .next (t.advance 2)) ∧
    (∀ s e, s.readByte (s.pair .hl) = .error e →
      exec i s = .next ((s.advance 2).takeHalt .execute s.pc (some 0xCB#8) e))) ∧
  (∀ s e, s.status = .running → s.readByte s.pc = .ok 0xCB#8 → s.readByte (s.pc + 1#16) = .error e →
    stepWith .extended s = .next (s.takeHalt .decode s.pc (some 0xCB#8) e))

/-- R182: CPL; applied twice it restores A. -/
def Obligations.ComplementAccumulator : Prop :=
  ∀ i : Instr, i.form = .cpl →
    OneByteRow 0x2F#8 i .f1 (fun _ => .cpl) ∧
    (∀ s, exec i s = .next ((s.advance 1).setR8 .a (s.r8 .a ^^^ 0xFF#8))) ∧
    (∀ s t u, exec i s = .next t → exec i t = .next u → u.r8 .a = s.r8 .a)

/-! ## Control transfer (43_control.md) -/

/-- R191: JP a16, whatever the flags are. R195: JP (HL), to the value of HL. -/
def Obligations.JumpAbsoluteAndToHL : Prop :=
  (∀ i : Instr, i.form = .jpAbs →
     OneByteRow 0xC3#8 i .f3 (fun pc0 => .jump (.flag .always) (.absWord (pc0 + 1#16))) ∧
     (∀ s lo hi, s.readByte (s.pc + 1#16) = .ok lo → s.readByte (s.pc + 2#16) = .ok hi →
       exec i s = .next (s.setPc (composeWord hi lo))) ∧
     (∀ s e, s.readByte (s.pc + 1#16) = .error e →
       exec i s = .next ((s.advance 3).takeHalt .execute s.pc (some 0xC3#8) e)) ∧
     (∀ s lo e, s.readByte (s.pc + 1#16) = .ok lo → s.readByte (s.pc + 2#16) = .error e →
       exec i s = .next ((s.advance 3).takeHalt .execute s.pc (some 0xC3#8) e))) ∧
  (∀ i : Instr, i.form = .jpHL →
     OneByteRow 0xE9#8 i .f1 (fun _ => .jump (.flag .always) (.reg (.pair .hl))) ∧
     ∀ s, exec i s = .next (s.setPc (s.pair .hl)))

/-- R192, R194: JP cc,a16 and JR cc,r8: not taken, the operand bytes are not read and nothing can fault. -/
def Obligations.ConditionalJumps : Prop :=
  (∀ p ∈ [(0xC2#8, Cond.nz, Operand.notFlag .z, fun s : State => !s.z), (0xCA#8, .z, .flag .z, fun s => s.z),
       (0xD2#8, .nc, .notFlag .c, fun s => !s.cy), (0xDA#8, .c, .flag .c, fun s => s.cy)],
   ∀ i : Instr, i.form = .jpAbsCC p.2.1 →
     OneByteRow p.1 i .f3 (fun pc0 => .jump p.2.2.1 (.absWord (pc0 + 1#16))) ∧
     (∀ s, p.2.2.2 s = false → exec i s = .next (s.advance 3)) ∧
     (∀ s lo hi, p.2.2.2 s = true → s.readByte (s.pc + 1#16) = .ok lo → s.readByte (s.pc + 2#16) = .ok hi →
       exec i s = .next (s.setPc (composeWord hi lo))) ∧
     (∀ s e, p.2.2.2 s = true → s.readByte (s.pc + 1#16) = .error e →
       exec i s = .next ((s.advance 3).takeHalt .execute s.pc (some p.1) e)) ∧
     (∀ s lo e, p.2.2.2 s = true → s.readByte (s.pc + 1#16) = .ok lo → s.readByte (s.pc + 2#16) = .error e →
       exec i s = .next ((s.advance 3).takeHalt .execute s.pc (some p.1) e))) ∧
  (∀ p ∈ [(0x20#8, Cond.nz, Operand.notFlag .z, fun s : State => !s.z), (0x28#8, .z, .flag .z, fun s => s.z),
       (0x30#8, .nc, .notFlag .c, fun s => !s.cy), (0x38#8, .c, .flag .c, fun s => s.cy)],
   ∀ i : Instr, i.form = .jrRelCC p.2.1 →
     OneByteRow p.1 i .f2r (fun pc0 => .jump p.2.2.1 (.rel (pc0 + 1#16))) ∧
     (∀ s, p.2.2.2 s = false → exec i s = .next (s.advance 2)) ∧
     (∀ s d, p.2.2.2 s = true → s.readByte (s.pc + 1#16) = .ok d →
       exec i s = .next (s.setPc (BitVec.ofInt 16 (s.pc.toNat + 2 + d.toInt)))) ∧
     (∀ s e, p.2.2.2 s = true → s.readByte (s.pc + 1#16) = .error e →
       exec i s = .next ((s.advance 2).takeHalt .execute s.pc (some p.1) e)))

/-- R193: JR r8: the displacement is signed and counts from the next instruction. -/
def Obligations.JumpRelative : Prop :=
  ∀ i : Instr, i.form = .jrRel →
    OneByteRow 0x18#8 i .f2r (fun pc0 => .jump (.flag .always) (.rel (pc0 + 1#16))) ∧
    (∀ s d, s.readByte (s.pc + 1#16) = .ok d →
      exec i s = .next (s.setPc (BitVec.ofInt 16 (s.pc.toNat + 2 + d.toInt)))) ∧
    (∀ s e, s.readByte (s.pc + 1#16) = .error e →
      exec i s = .next ((s.advance 2).takeHalt .execute s.pc (some 0x18#8) e))

/-! ## NOP, DI and Undefined (44_misc.md) -/

/-- R210, R211: NOP and DI only advance pc. -/
def Obligations.NopAndDiOnlyAdvance : Prop :=
  ∀ p ∈ [(0x00#8, Form.nop, Record.nop), (0xF3#8, .di, .di)],
  ∀ i : Instr, i.form = p.2.1 →
    OneByteRow p.1 i .f1 (fun _ => p.2.2) ∧ ∀ s, exec i s = .next (s.advance 1)

/-- R213, R221: running an Undefined opcode is fatal: UnimplementedOpcode in Execute, with the byte and its address, pc
past the bytes the Decoder read, and nothing else changed. -/
def Obligations.UndefinedOpcodeHalts : Prop :=
  (∀ s op, s.status = .running → op.toNat ∈ undefinedBytes → s.readByte s.pc = .ok op →
    stepWith .extended s = .next ((s.advance 1).takeHalt .execute s.pc (some op)
      { cause := .unimplementedOpcode, faultAddr := none, sub := none })) ∧
  (∀ s sub, s.status = .running → (sub.toNat < 0x20 ∨ 0x27 < sub.toNat) → s.readByte s.pc = .ok 0xCB#8 →
    s.readByte (s.pc + 1#16) = .ok sub →
    stepWith .extended s = .next ((s.advance 2).takeHalt .execute s.pc (some 0xCB#8)
      { cause := .unimplementedOpcode, faultAddr := none, sub := some sub })) ∧
  (∀ s op, s.status = .running → op ≠ 0x00#8 → op ≠ 0xAF#8 → op ≠ 0xC3#8 → s.readByte s.pc = .ok op →
    stepWith .minimal s = .next ((s.advance 1).takeHalt .execute s.pc (some op)
      { cause := .unimplementedOpcode, faultAddr := none, sub := none }))

/-! ## Encoding (30_encoding.md) -/

/-- A few words written out from R78 and R79, one of every family, and what they stand for. -/
def Obligations.SomeWordsDecode : Prop :=
  decodeStream .extended [0x00#8] = .ok (.nop, 1) ∧
  decodeStream .extended [0x41#8] = .ok (.ldB_C, 1) ∧
  decodeStream .extended [0x21#8, 0xFF#8, 0xDF#8] = .ok (.ldHL_d16, 3) ∧
  decodeStream .extended [0xAF#8] = .ok (.xorA, 1) ∧
  decodeStream .extended [0xCB#8, 0x27#8] = .ok (.slaA, 2) ∧
  decodeStream .extended [0xC3#8, 0x34#8, 0x12#8] = .ok (.jp_a16, 3) ∧
  decodeStream .extended [0x20#8, 0xFC#8] = .ok (.jrNZ_r8, 2) ∧
  decodeStream .extended [0xFF#8] = .error (.undefined 0xFF#8 none) ∧
  decodeStream .extended [0xCB#8, 0x00#8] = .error (.undefined 0xCB#8 (some 0x00#8)) ∧
  decodeStream .minimal [0xCB#8, 0x27#8] = .error (.undefined 0xCB#8 none)

/-- Decode and encode agree on every row with every operand, whatever bytes follow. -/
def Obligations.DecodeOfEncode : Prop :=
  ∀ (i : Instr) (imm : Word) (rest : List Byte),
    decodeStream .extended (encode i imm ++ rest) = .ok (i, (encode i imm).length)

/-- The other direction: bytes that decode to a row begin with the bytes that select it, so each row has one encoding
and no two rows share one; and the row's operand bytes are what follows. -/
def Obligations.EncodeOfDecode : Prop :=
  (∀ (bytes : List Byte) (i : Instr) (n : Nat), decodeStream .extended bytes = .ok (i, n) → n ≤ bytes.length →
    ∃ imm, encode i imm = bytes.take n) ∧
  (∀ (i j : Instr) (imm imm' : Word), encode i imm = encode j imm' → i = j)

/-- R76, R80: decoding is total: a byte is a row, the prefix, or one of the 116 Undefined bytes; after the prefix a byte
is one of the 8 CB rows or Undefined. -/
def Obligations.DecodingIsTotal : Prop :=
  undefinedBytes.length = 116 ∧ undefinedBytes.Nodup ∧
  ∀ (op sub : Byte),
    (op.toNat ∈ undefinedBytes ∧ op ≠ 0xCB#8 ∧ decode .extended op sub = .undefined op none) ∨
    (op = 0xCB#8 ∧ op.toNat ∉ undefinedBytes ∧
      if 0x20 ≤ sub.toNat ∧ sub.toNat ≤ 0x27 then ∃ i, decode .extended op sub = .row i
      else decode .extended op sub = .undefined op (some sub)) ∨
    (op ≠ 0xCB#8 ∧ op.toNat ∉ undefinedBytes ∧ ∃ i, ∀ other, decode .extended op other = .row i)

/-- R84: the minimal profile: three rows, every other byte Undefined with one byte consumed and no second byte read. -/
def Obligations.MinimalProfileHasThreeRows : Prop :=
  ∀ (op sub : Byte),
    Profile.minimal.readsSecond op = false ∧
    (op = 0x00#8 → decode .minimal op sub = .row .nop) ∧
    (op = 0xAF#8 → decode .minimal op sub = .row .xorA) ∧
    (op = 0xC3#8 → decode .minimal op sub = .row .jp_a16) ∧
    (op ≠ 0x00#8 → op ≠ 0xAF#8 → op ≠ 0xC3#8 →
      decode .minimal op sub = .undefined op none ∧ (decode .minimal op sub).length = 1) ∧
    (∀ i, decode .minimal op sub = .row i → decode .extended op sub = .row i)

/-! ## The step (40_step_operands.md) -/

/-- R107: a Running step, with either opcode table, whose bytes at pc decode to a row is `exec` of that row, which advances
pc and executes. That `step` is `stepWith` of the extended table is no rule: OPTABLE_PROFILE is open (R4), and its value
here is the model's choice (DESIGN CHOICE, log 3). -/
def Obligations.StepRunsTheDecodedRow : Prop :=
  (∀ (p : Profile) (s : State) (op sub : Byte) (i : Instr), s.status = .running → s.readByte s.pc = .ok op →
    (p.readsSecond op = true → s.readByte (s.pc + 1#16) = .ok sub) → decode p op sub = .row i →
    stepWith p s = exec i s) ∧
  (∀ s : State, step s = stepWith .extended s) ∧
  (∀ (i : Instr) (s : State), exec i s = runRecord i.form.opcode i.form.length (i.form.record s.pc) s)

/-- An instruction encoded in memory at pc is the one a step runs, and its operand descriptors resolve to the operand
that was encoded (R73, R105). It is so of every row because `step` uses the extended opcode table, which is the model's
choice (DESIGN CHOICE, log 3); the minimal table has three of the rows. -/
def Obligations.EncodedInstructionRunsWithItsOperand : Prop :=
  ∀ (i : Instr) (imm : Word) (s : State), s.status = .running →
    (∀ k (h : k < (encode i imm).length), s.readByte (s.pc + BitVec.ofNat 16 k) = .ok (encode i imm)[k]) →
    step s = exec i s ∧
    (i.form.format = .f2i → getOperand (.absByte (s.pc + 1#16)) (s.advance 2) = .ok (zext16 (lowByte imm))) ∧
    (i.form.format = .f2r →
      getOperand (.rel (s.pc + 1#16)) (s.advance 2) = .ok (s.pc + 2#16 + sext16 (lowByte imm))) ∧
    (i.form.format = .f3 → getOperand (.absWord (s.pc + 1#16)) (s.advance 3) = .ok imm)

/-- R101, R103: a failed read in Fetch or Decode halts with pc unchanged and nothing else written. -/
def Obligations.FetchAndDecodeFaultsHalt : Prop :=
  (∀ (p : Profile) (s : State) (e : Trap), s.status = .running → s.readByte s.pc = .error e →
    e.faultAddr = some s.pc ∧ stepWith p s = .next (s.takeHalt .fetch s.pc none e)) ∧
  (∀ (s : State) (e : Trap), s.status = .running → s.readByte s.pc = .ok 0xCB#8 → s.readByte (s.pc + 1#16) = .error e →
    e.faultAddr = some (s.pc + 1#16) ∧ stepWith .extended s = .next (s.takeHalt .decode s.pc (some 0xCB#8) e))

/-- R100, R231: Halted is absorbing, no number of STEP requests changes anything. R7: a step has exactly two outcomes, a
next state that is Running or one that is Halted. -/
def Obligations.StepOutcomes : Prop :=
  (∀ s : State, s.status = .halted → (∀ p, stepWith p s = .next s) ∧ ∀ k, core.run k s = .next s) ∧
  (∀ (p : Profile) (s : State), ∃ t, stepWith p s = .next t ∧ (t.status = .running ∨ t.status = .halted))

/-! ## Whole-machine rules -/

/-- R224: the state at a halt. A step that halts a Running core has changed pc, STATUS and HALTREC only (R224 marks that
of the table's rows as derived from R61 and R141 to R144); the record names
the instruction's address, and pc is pc0 after a Fetch or Decode fault and past the instruction after an Execute fault. -/
def Obligations.HaltingStepChangesOnlyPc : Prop :=
  ∀ (p : Profile) (s t : State), s.status = .running → stepWith p s = .next t → t.status = .halted →
    (∀ r, t.r8 r = s.r8 r) ∧ t.z = s.z ∧ t.cy = s.cy ∧ t.rom = s.rom ∧ t.ram = s.ram ∧ t.romLen = s.romLen ∧
    t.haltRec.addr = s.pc ∧
    (t.haltRec.phase = .fetch → t.pc = s.pc ∧ t.haltRec.opcode = none) ∧
    (t.haltRec.phase = .decode → t.pc = s.pc) ∧
    (t.haltRec.phase = .execute → ∃ op sub, s.readByte s.pc = .ok op ∧ t.haltRec.opcode = some op ∧
      (p.readsSecond op = true → s.readByte (s.pc + 1#16) = .ok sub) ∧
      t.pc = s.pc + BitVec.ofNat 16 (decode p op sub).length)

/-- R227, R61, R229: the Execute phase of a row halts only by a failed access at one of the addresses the table lists for
its form, the first of them that cannot be read, and then nothing but pc, STATUS and HALTREC has changed; if all of them
can be read the row completes and the core stays Running, so a form with no address in the table never halts. -/
def Obligations.ExecuteHaltsWhereTheTableSays : Prop :=
  (∀ (i : Instr) (s t : State), s.status = .running → exec i s = .next t → t.status = .halted →
     ∃ before addr after e, i.form.accessAddrs s = before ++ addr :: after ∧
       (∀ a ∈ before, ∃ v, s.readByte a = .ok v) ∧ s.readByte addr = .error e ∧
       (e = { cause := .invalidAddress, faultAddr := some addr, sub := none } ∨
         e = { cause := .romRange, faultAddr := some addr, sub := none }) ∧
       t = (s.advance i.form.length).takeHalt .execute s.pc (some i.form.opcode) e) ∧
  (∀ (i : Instr) (s : State), s.status = .running → (∀ addr ∈ i.form.accessAddrs s, ∃ v, s.readByte addr = .ok v) →
     ∃ t, exec i s = .next t ∧ t.status = .running ∧ t.haltRec = s.haltRec)

/-- R17: no step writes Carry, and only a row with a Decrement in it writes Z; so from reset Carry is false for ever (R17
marks that as derived from R30 and its table). -/
def Obligations.OnlyDecrementWritesAFlag : Prop :=
  (∀ (p : Profile) (s t : State), stepWith p s = .next t → t.cy = s.cy) ∧
  (∀ (i : Instr) (s t : State), exec i s = .next t → i.form.writesZ = false → t.z = s.z) ∧
  (∀ (p : Profile) (s t : State), stepWith p s = .next t → t.z ≠ s.z →
    ∃ i, fetchDecode p s = .decoded (.row i) ∧ i.form.writesZ = true) ∧
  (∀ (image : List Byte) (k : Nat) (t : State), core.run k (State.resetWith image) = .next t → t.cy = false)

/-- R19, R18: every row leaves pc past itself but the jumps, whose target wins; and the advance never wraps, because an
opcode can only be fetched from a mapped address (R18 marks that as derived from R42 and R71). -/
def Obligations.OnlyJumpsWritePc : Prop :=
  (∀ (i : Instr) (s t : State), exec i s = .next t → i.form.isJump = false →
    t.pc = s.pc + BitVec.ofNat 16 i.form.length) ∧
  (∀ (s : State) (op : Byte) (f : Form), s.readByte s.pc = .ok op →
    (s.pc + BitVec.ofNat 16 f.length).toNat = s.pc.toNat + f.length)

/-- The invariant is kept by every step, from every state that meets it: the buffers stay canonical and inside their
size, and the halt record is one a program can cause (R223, R225: causes 3 and 4 cannot occur, marked there as derived);
`sub` is valid only for an undefined CB form (R24; log 10). -/
def Obligations.StepKeepsTheInvariant : Prop :=
  ∀ (p : Profile) (s t : State), Invariant s → stepWith p s = .next t → Invariant t

/-- The ports keep the invariant too: XMEM accesses and RESET between the steps. -/
def Obligations.RequestsKeepTheInvariant : Prop :=
  ∀ (qs : List Request) (s t : State) (replies : List XmemReply), Invariant s → s.serveAll qs = .next (replies, t) → Invariant t

/-- The record of every row is well formed: no row writes a flag, a relative operand or a fixed address, every jump
tests a flag, every Stacked list has two plain members (30_encoding.md R74, R75; 44_misc.md R212); and a well-formed record
raises neither InvalidFlagMutation nor InvalidOperandWrite (60_exceptions.md R223, R225, which mark it as derived from
R78). -/
def Obligations.RowsNeverBreakTheOperandContract : Prop :=
  (∀ (i : Instr) (pc0 : Addr), (i.form.record pc0).wf = true) ∧
  (∀ (r : Record) (s t : State) (e : Trap), r.wf = true → execute r s = .raised e t →
     e.cause ≠ .invalidFlagMutation ∧ e.cause ≠ .invalidOperandWrite)

/-! ## Frames -/

/-- What a row that stores nothing leaves unchanged: every register but its destinations, the flags but Z of a
Decrement, Carry, ROM_LEN and every byte of memory; STATUS and HALTREC unless an access of it failed. -/
def Obligations.FrameOfRowsThatStoreNothing : Prop :=
  ∀ (i : Instr) (s t : State), i.form.storeAddr s = none → i.form.isJump = false → exec i s = .next t →
    (∀ r, r ∉ i.form.destRegs → t.r8 r = s.r8 r) ∧
    (i.form.writesZ = false → t.z = s.z) ∧ t.cy = s.cy ∧
    t.romLen = s.romLen ∧ t.rom = s.rom ∧ t.ram = s.ram ∧ (∀ addr, t.readByte addr = s.readByte addr) ∧
    ((∀ addr ∈ i.form.accessAddrs s, ∃ v, s.readByte addr = .ok v) → t.status = s.status ∧ t.haltRec = s.haltRec)

/-- What a storing row leaves unchanged: every register but those its addressing mode updates (HL of the post-increment
and post-decrement stores), the flags but Z of a Decrement, and every byte but the one at the address stored to. -/
def Obligations.FrameOfRowsThatStore : Prop :=
  ∀ (i : Instr) (s t : State) (addr : Addr), i.form.storeAddr s = some addr → exec i s = .next t →
    (∀ r, r ∉ i.form.destRegs → t.r8 r = s.r8 r) ∧
    (i.form.writesZ = false → t.z = s.z) ∧ t.cy = s.cy ∧
    t.romLen = s.romLen ∧ (∀ k, translateAddr k ≠ translateAddr addr → t.readByte k = s.readByte k) ∧
    ((∀ a ∈ i.form.accessAddrs s, ∃ v, s.readByte a = .ok v) → t.status = s.status ∧ t.haltRec = s.haltRec)

/-- What a jump leaves unchanged: everything but pc; STATUS and HALTREC unless its target could not be read. -/
def Obligations.FrameOfJumps : Prop :=
  ∀ (i : Instr) (s t : State), i.form.isJump = true → exec i s = .next t →
    (∀ r, t.r8 r = s.r8 r) ∧ t.z = s.z ∧ t.cy = s.cy ∧ t.romLen = s.romLen ∧ t.rom = s.rom ∧ t.ram = s.ram ∧
    (∀ addr, t.readByte addr = s.readByte addr) ∧
    ((∀ addr ∈ i.form.accessAddrs s, ∃ v, s.readByte addr = .ok v) → t.status = s.status ∧ t.haltRec = s.haltRec)
end

