-- ==== Sys2Proof/Laws/Bits.lean ====
section
/-! SUPPORT. Bytes of words: splitting, composing, and 16-bit arithmetic cut to its low byte (42_alu.md R160). -/

namespace Sys2Proof.Machine

@[simp] theorem lowByte_zext16 (v : Byte) : lowByte (zext16 v) = v := by
  simp [lowByte, zext16]

@[simp] theorem lowByte_composeWord (hi lo : Byte) : lowByte (composeWord hi lo) = lo := by
  ext i hi'
  simp [lowByte, composeWord]

/-- A composed word as a number. -/
theorem composeWord_toNat (hi lo : Byte) : (composeWord hi lo).toNat = hi.toNat * 256 + lo.toNat := by
  have hh := hi.isLt
  have hl := lo.isLt
  have h1 : hi.toNat <<< 8 % 65536 = hi.toNat <<< 8 := by
    rw [Nat.shiftLeft_eq]; omega
  simp only [composeWord, BitVec.toNat_or, BitVec.toNat_shiftLeft, BitVec.toNat_setWidth]
  rw [Nat.mod_eq_of_lt (show hi.toNat < 2 ^ 16 by omega), Nat.mod_eq_of_lt (show lo.toNat < 2 ^ 16 by omega), h1,
    ← Nat.shiftLeft_add_eq_or_of_lt hl, Nat.shiftLeft_eq]

@[simp] theorem highByte_composeWord (hi lo : Byte) : highByte (composeWord hi lo) = hi := by
  have hh := hi.isLt
  have hl := lo.isLt
  apply BitVec.eq_of_toNat_eq
  simp only [highByte, BitVec.toNat_setWidth, BitVec.toNat_ushiftRight, composeWord_toNat,
    Nat.shiftRight_eq_div_pow]
  omega

@[simp] theorem composeWord_high_low (v : Word) : composeWord (highByte v) (lowByte v) = v := by
  have hv := v.isLt
  apply BitVec.eq_of_toNat_eq
  rw [composeWord_toNat]
  simp only [highByte, lowByte, BitVec.toNat_setWidth, BitVec.toNat_ushiftRight, Nat.shiftRight_eq_div_pow]
  omega

/-- The low byte of a 16-bit sum is the 8-bit sum of the low bytes. -/
@[simp] theorem lowByte_add (v w : Word) : lowByte (v + w) = lowByte v + lowByte w := by
  simp [lowByte, BitVec.setWidth_add]

/-- The low byte of a 16-bit difference is the 8-bit difference of the low bytes. -/
theorem lowByte_sub_one (v : Word) : lowByte (v - 1#16) = lowByte v - 1#8 := by
  apply BitVec.eq_of_toNat_eq
  simp [lowByte, BitVec.toNat_sub]
  omega

@[simp] theorem lowByte_xor (v w : Word) : lowByte (v ^^^ w) = lowByte v ^^^ lowByte w := by
  simp [lowByte]

@[simp] theorem lowByte_zext16_shl (v : Byte) : lowByte (zext16 v <<< 1) = v <<< 1 := by
  apply BitVec.eq_of_toNat_eq
  simp [lowByte, zext16, BitVec.toNat_shiftLeft]

end Sys2Proof.Machine
end

