-- ==== Sys2Proof/Laws/State.lean ====
section
/-! SUPPORT. What each update of State leaves and what it sets: one lemma per projection per update, so that no
later proof unfolds a record update. -/

namespace Sys2Proof.Machine

/-! ## Setting an 8-bit register -/

@[simp] theorem State.setR8_z (s : State) (r : Reg8) (v : Byte) : (s.setR8 r v).z = s.z := by cases r <;> rfl
@[simp] theorem State.setR8_cy (s : State) (r : Reg8) (v : Byte) : (s.setR8 r v).cy = s.cy := by cases r <;> rfl
@[simp] theorem State.setR8_pc (s : State) (r : Reg8) (v : Byte) : (s.setR8 r v).pc = s.pc := by cases r <;> rfl
@[simp] theorem State.setR8_romLen (s : State) (r : Reg8) (v : Byte) : (s.setR8 r v).romLen = s.romLen := by cases r <;> rfl
@[simp] theorem State.setR8_rom (s : State) (r : Reg8) (v : Byte) : (s.setR8 r v).rom = s.rom := by cases r <;> rfl
@[simp] theorem State.setR8_ram (s : State) (r : Reg8) (v : Byte) : (s.setR8 r v).ram = s.ram := by cases r <;> rfl
@[simp] theorem State.setR8_status (s : State) (r : Reg8) (v : Byte) : (s.setR8 r v).status = s.status := by cases r <;> rfl
@[simp] theorem State.setR8_haltRec (s : State) (r : Reg8) (v : Byte) : (s.setR8 r v).haltRec = s.haltRec := by cases r <;> rfl
@[simp] theorem State.setR8_r8_same (s : State) (r : Reg8) (v : Byte) : (s.setR8 r v).r8 r = v := by cases r <;> rfl
theorem State.setR8_r8_other (s : State) (q r : Reg8) (v : Byte) (h : r ≠ q) : (s.setR8 q v).r8 r = s.r8 r := by
  cases q <;> cases r <;> first | rfl | exact absurd rfl h
theorem State.setR8_r8 (s : State) (q r : Reg8) (v : Byte) :
    (s.setR8 q v).r8 r = if r = q then v else s.r8 r := by
  split
  · subst q; simp
  · exact s.setR8_r8_other q r v ‹_›

/-! ## Setting a pair -/

@[simp] theorem State.setPair_z (s : State) (p : Pair) (v : Word) : (s.setPair p v).z = s.z := by simp [State.setPair]
@[simp] theorem State.setPair_cy (s : State) (p : Pair) (v : Word) : (s.setPair p v).cy = s.cy := by simp [State.setPair]
@[simp] theorem State.setPair_pc (s : State) (p : Pair) (v : Word) : (s.setPair p v).pc = s.pc := by simp [State.setPair]
@[simp] theorem State.setPair_romLen (s : State) (p : Pair) (v : Word) : (s.setPair p v).romLen = s.romLen := by simp [State.setPair]
@[simp] theorem State.setPair_rom (s : State) (p : Pair) (v : Word) : (s.setPair p v).rom = s.rom := by simp [State.setPair]
@[simp] theorem State.setPair_ram (s : State) (p : Pair) (v : Word) : (s.setPair p v).ram = s.ram := by simp [State.setPair]
@[simp] theorem State.setPair_status (s : State) (p : Pair) (v : Word) : (s.setPair p v).status = s.status := by simp [State.setPair]
@[simp] theorem State.setPair_haltRec (s : State) (p : Pair) (v : Word) : (s.setPair p v).haltRec = s.haltRec := by simp [State.setPair]
theorem State.setPair_r8 (s : State) (p : Pair) (v : Word) (r : Reg8) :
    (s.setPair p v).r8 r =
      if r = lowReg p then lowByte v else if r = highReg p then highByte v else s.r8 r := by
  simp only [State.setPair, State.setR8_r8]

/-! ## Setting a register by name -/

@[simp] theorem State.writeReg_z (s : State) (n : RegName) (v : Word) : (s.writeReg n v).z = s.z := by
  cases n <;> simp [State.writeReg]
@[simp] theorem State.writeReg_cy (s : State) (n : RegName) (v : Word) : (s.writeReg n v).cy = s.cy := by
  cases n <;> simp [State.writeReg]
@[simp] theorem State.writeReg_pc (s : State) (n : RegName) (v : Word) : (s.writeReg n v).pc = s.pc := by
  cases n <;> simp [State.writeReg]
@[simp] theorem State.writeReg_romLen (s : State) (n : RegName) (v : Word) : (s.writeReg n v).romLen = s.romLen := by
  cases n <;> simp [State.writeReg]
@[simp] theorem State.writeReg_rom (s : State) (n : RegName) (v : Word) : (s.writeReg n v).rom = s.rom := by
  cases n <;> simp [State.writeReg]
@[simp] theorem State.writeReg_ram (s : State) (n : RegName) (v : Word) : (s.writeReg n v).ram = s.ram := by
  cases n <;> simp [State.writeReg]
@[simp] theorem State.writeReg_status (s : State) (n : RegName) (v : Word) : (s.writeReg n v).status = s.status := by
  cases n <;> simp [State.writeReg]
@[simp] theorem State.writeReg_haltRec (s : State) (n : RegName) (v : Word) : (s.writeReg n v).haltRec = s.haltRec := by
  cases n <;> simp [State.writeReg]

/-! ## setZ -/

@[simp] theorem State.setZ_z (s : State) (v : Bool) : (s.setZ v).z = v := rfl
@[simp] theorem State.setZ_cy (s : State) (v : Bool) : (s.setZ v).cy = s.cy := rfl
@[simp] theorem State.setZ_pc (s : State) (v : Bool) : (s.setZ v).pc = s.pc := rfl
@[simp] theorem State.setZ_romLen (s : State) (v : Bool) : (s.setZ v).romLen = s.romLen := rfl
@[simp] theorem State.setZ_rom (s : State) (v : Bool) : (s.setZ v).rom = s.rom := rfl
@[simp] theorem State.setZ_ram (s : State) (v : Bool) : (s.setZ v).ram = s.ram := rfl
@[simp] theorem State.setZ_status (s : State) (v : Bool) : (s.setZ v).status = s.status := rfl
@[simp] theorem State.setZ_haltRec (s : State) (v : Bool) : (s.setZ v).haltRec = s.haltRec := rfl
@[simp] theorem State.setZ_r8 (s : State) (v : Bool) (r : Reg8) : (s.setZ v).r8 r = s.r8 r := by cases r <;> rfl
@[simp] theorem State.setZ_pair (s : State) (v : Bool) (p : Pair) : (s.setZ v).pair p = s.pair p := by simp [State.pair]

/-! ## setCy -/

@[simp] theorem State.setCy_z (s : State) (v : Bool) : (s.setCy v).z = s.z := rfl
@[simp] theorem State.setCy_cy (s : State) (v : Bool) : (s.setCy v).cy = v := rfl
@[simp] theorem State.setCy_pc (s : State) (v : Bool) : (s.setCy v).pc = s.pc := rfl
@[simp] theorem State.setCy_romLen (s : State) (v : Bool) : (s.setCy v).romLen = s.romLen := rfl
@[simp] theorem State.setCy_rom (s : State) (v : Bool) : (s.setCy v).rom = s.rom := rfl
@[simp] theorem State.setCy_ram (s : State) (v : Bool) : (s.setCy v).ram = s.ram := rfl
@[simp] theorem State.setCy_status (s : State) (v : Bool) : (s.setCy v).status = s.status := rfl
@[simp] theorem State.setCy_haltRec (s : State) (v : Bool) : (s.setCy v).haltRec = s.haltRec := rfl
@[simp] theorem State.setCy_r8 (s : State) (v : Bool) (r : Reg8) : (s.setCy v).r8 r = s.r8 r := by cases r <;> rfl
@[simp] theorem State.setCy_pair (s : State) (v : Bool) (p : Pair) : (s.setCy v).pair p = s.pair p := by simp [State.pair]

/-! ## setPc -/

@[simp] theorem State.setPc_z (s : State) (t : Addr) : (s.setPc t).z = s.z := rfl
@[simp] theorem State.setPc_cy (s : State) (t : Addr) : (s.setPc t).cy = s.cy := rfl
@[simp] theorem State.setPc_pc (s : State) (t : Addr) : (s.setPc t).pc = t := rfl
@[simp] theorem State.setPc_romLen (s : State) (t : Addr) : (s.setPc t).romLen = s.romLen := rfl
@[simp] theorem State.setPc_rom (s : State) (t : Addr) : (s.setPc t).rom = s.rom := rfl
@[simp] theorem State.setPc_ram (s : State) (t : Addr) : (s.setPc t).ram = s.ram := rfl
@[simp] theorem State.setPc_status (s : State) (t : Addr) : (s.setPc t).status = s.status := rfl
@[simp] theorem State.setPc_haltRec (s : State) (t : Addr) : (s.setPc t).haltRec = s.haltRec := rfl
@[simp] theorem State.setPc_r8 (s : State) (t : Addr) (r : Reg8) : (s.setPc t).r8 r = s.r8 r := by cases r <;> rfl
@[simp] theorem State.setPc_pair (s : State) (t : Addr) (p : Pair) : (s.setPc t).pair p = s.pair p := by simp [State.pair]

/-! ## Advance-PC -/

@[simp] theorem State.advance_z (s : State) (n : Nat) : (s.advance n).z = s.z := rfl
@[simp] theorem State.advance_cy (s : State) (n : Nat) : (s.advance n).cy = s.cy := rfl
@[simp] theorem State.advance_pc (s : State) (n : Nat) : (s.advance n).pc = s.pc + BitVec.ofNat 16 n := rfl
@[simp] theorem State.advance_romLen (s : State) (n : Nat) : (s.advance n).romLen = s.romLen := rfl
@[simp] theorem State.advance_rom (s : State) (n : Nat) : (s.advance n).rom = s.rom := rfl
@[simp] theorem State.advance_ram (s : State) (n : Nat) : (s.advance n).ram = s.ram := rfl
@[simp] theorem State.advance_status (s : State) (n : Nat) : (s.advance n).status = s.status := rfl
@[simp] theorem State.advance_haltRec (s : State) (n : Nat) : (s.advance n).haltRec = s.haltRec := rfl
@[simp] theorem State.advance_r8 (s : State) (n : Nat) (r : Reg8) : (s.advance n).r8 r = s.r8 r := by cases r <;> rfl
@[simp] theorem State.advance_pair (s : State) (n : Nat) (p : Pair) : (s.advance n).pair p = s.pair p := by simp [State.advance]
@[simp] theorem State.advance_readReg (s : State) (n : Nat) (x : RegName) : (s.advance n).readReg x = s.readReg x := by
  cases x <;> simp [State.readReg]
@[simp] theorem State.advance_flag (s : State) (n : Nat) (f : FlagName) : (s.advance n).flag f = s.flag f := by cases f <;> rfl

/-! ## Setting a byte of a buffer -/

@[simp] theorem State.setBuffer_z (s : State) (loc : Region × Nat) (v : Byte) : (s.setBuffer loc v).z = s.z := by
  obtain ⟨_ | _, _⟩ := loc <;> rfl
@[simp] theorem State.setBuffer_cy (s : State) (loc : Region × Nat) (v : Byte) : (s.setBuffer loc v).cy = s.cy := by
  obtain ⟨_ | _, _⟩ := loc <;> rfl
@[simp] theorem State.setBuffer_pc (s : State) (loc : Region × Nat) (v : Byte) : (s.setBuffer loc v).pc = s.pc := by
  obtain ⟨_ | _, _⟩ := loc <;> rfl
@[simp] theorem State.setBuffer_romLen (s : State) (loc : Region × Nat) (v : Byte) : (s.setBuffer loc v).romLen = s.romLen := by
  obtain ⟨_ | _, _⟩ := loc <;> rfl
@[simp] theorem State.setBuffer_status (s : State) (loc : Region × Nat) (v : Byte) : (s.setBuffer loc v).status = s.status := by
  obtain ⟨_ | _, _⟩ := loc <;> rfl
@[simp] theorem State.setBuffer_haltRec (s : State) (loc : Region × Nat) (v : Byte) : (s.setBuffer loc v).haltRec = s.haltRec := by
  obtain ⟨_ | _, _⟩ := loc <;> rfl
@[simp] theorem State.setBuffer_r8 (s : State) (loc : Region × Nat) (v : Byte) (r : Reg8) : (s.setBuffer loc v).r8 r = s.r8 r := by
  obtain ⟨_ | _, _⟩ := loc <;> cases r <;> rfl
@[simp] theorem State.setBuffer_rom_rom (s : State) (off : Nat) (v : Byte) : (s.setBuffer (.rom, off) v).rom = s.rom.write off v := rfl
@[simp] theorem State.setBuffer_rom_ram (s : State) (off : Nat) (v : Byte) : (s.setBuffer (.rom, off) v).ram = s.ram := rfl
@[simp] theorem State.setBuffer_ram_ram (s : State) (off : Nat) (v : Byte) : (s.setBuffer (.ram, off) v).ram = s.ram.write off v := rfl
@[simp] theorem State.setBuffer_ram_rom (s : State) (off : Nat) (v : Byte) : (s.setBuffer (.ram, off) v).rom = s.rom := rfl

/-! ## Halt entry -/

@[simp] theorem State.takeHalt_z (s : State) (ph : Phase) (pc0 : Addr) (op : Option Byte) (t : Trap) : 
    (s.takeHalt ph pc0 op t).z = s.z := rfl
@[simp] theorem State.takeHalt_cy (s : State) (ph : Phase) (pc0 : Addr) (op : Option Byte) (t : Trap) : 
    (s.takeHalt ph pc0 op t).cy = s.cy := rfl
@[simp] theorem State.takeHalt_pc (s : State) (ph : Phase) (pc0 : Addr) (op : Option Byte) (t : Trap) : 
    (s.takeHalt ph pc0 op t).pc = s.pc := rfl
@[simp] theorem State.takeHalt_romLen (s : State) (ph : Phase) (pc0 : Addr) (op : Option Byte) (t : Trap) : 
    (s.takeHalt ph pc0 op t).romLen = s.romLen := rfl
@[simp] theorem State.takeHalt_rom (s : State) (ph : Phase) (pc0 : Addr) (op : Option Byte) (t : Trap) : 
    (s.takeHalt ph pc0 op t).rom = s.rom := rfl
@[simp] theorem State.takeHalt_ram (s : State) (ph : Phase) (pc0 : Addr) (op : Option Byte) (t : Trap) : 
    (s.takeHalt ph pc0 op t).ram = s.ram := rfl
@[simp] theorem State.takeHalt_r8 (s : State) (ph : Phase) (pc0 : Addr) (op : Option Byte) (t : Trap) (r : Reg8) : 
    (s.takeHalt ph pc0 op t).r8 r = s.r8 r := by cases r <;> rfl
@[simp] theorem State.takeHalt_status (s : State) (ph : Phase) (pc0 : Addr) (op : Option Byte) (t : Trap) : 
    (s.takeHalt ph pc0 op t).status = .halted := rfl
@[simp] theorem State.takeHalt_haltRec (s : State) (ph : Phase) (pc0 : Addr) (op : Option Byte) (t : Trap) : 
    (s.takeHalt ph pc0 op t).haltRec =
      { cause := t.cause, phase := ph, addr := pc0, opcode := op, sub := t.sub, faultAddr := t.faultAddr } := rfl

/-! ## Two states are equal when every projection is -/

theorem State.ext_of_projections {s t : State} (hr : ∀ r, s.r8 r = t.r8 r) (hz : s.z = t.z) (hc : s.cy = t.cy)
    (hp : s.pc = t.pc) (hl : s.romLen = t.romLen) (hrom : s.rom = t.rom) (hram : s.ram = t.ram)
    (hs : s.status = t.status) (hh : s.haltRec = t.haltRec) : s = t := by
  have ha := hr .a; have hb := hr .b; have hcr := hr .c; have hd := hr .d
  have he := hr .e; have hhr := hr .h; have hlr := hr .l
  cases s; cases t
  simp only [State.r8] at *
  subst_vars
  rfl

end Sys2Proof.Machine
end

