-- ==== Sys2Proof/Laws/Memory.lean ====
section
/-! SUPPORT. A buffer as a list: read after write, the canonical form and the bound on offsets are kept by every
operation, and two canonical buffers that read alike are one list. -/

namespace Sys2Proof.Machine

/-! ## Reading after an operation -/

theorem Memory.read_erase (m : Memory) (off k : Nat) :
    (m.erase off).read k = if k = off then Memory.unlisted else m.read k := by
  induction m with
  | nil => simp [Memory.erase, Memory.read]
  | cons x rest ih =>
    obtain ⟨key, v⟩ := x
    by_cases hk : key = off
    · subst hk
      have : Memory.erase ((key, v) :: rest) key = Memory.erase rest key := by simp [Memory.erase]
      rw [this, ih]
      by_cases h : k = key
      · simp [h]
      · simp [h, Memory.read, Ne.symm h]
    · have : Memory.erase ((key, v) :: rest) off = (key, v) :: Memory.erase rest off := by
        simp [Memory.erase, hk]
      rw [this]
      by_cases h : key = k
      · subst h; simp [Memory.read, hk]
      · simp only [Memory.read, if_neg h, ih]

/-- Inserting an entry at an offset that reads as unlisted sets that offset and no other. -/
theorem Memory.read_insert (m : Memory) (off k : Nat) (v : Byte) (h : ∀ x ∈ m, x.1 ≠ off) :
    (Memory.insert m off v).read k = if k = off then v else m.read k := by
  induction m with
  | nil => simp [Memory.insert, Memory.read, eq_comm]
  | cons x rest ih =>
    obtain ⟨key, w⟩ := x
    have hkey : key ≠ off := h (key, w) (by simp)
    have ih' := ih fun y hy => h y (by simp [hy])
    simp only [Memory.insert]
    split
    · by_cases hk : k = off
      · simp [Memory.read, hk]
      · simp [Memory.read, hk, Ne.symm hk]
    · simp only [Memory.read]
      by_cases hk : key = k
      · subst hk; simp [hkey]
      · simp [hk, ih']

theorem Memory.mem_erase {m : Memory} {off : Nat} {x : Host.Cell} :
    x ∈ m.erase off ↔ x ∈ m ∧ x.1 ≠ off := by
  simp [Memory.erase]

/-- Read after write, at every offset and in every list, canonical or not. -/
@[simp] theorem Memory.read_write (m : Memory) (off k : Nat) (v : Byte) :
    (m.write off v).read k = if k = off then v else m.read k := by
  unfold Memory.write
  split
  · rw [Memory.read_erase, ‹v = _›]
  · rw [Memory.read_insert _ _ _ _ fun x hx => (Memory.mem_erase.mp hx).2, Memory.read_erase]
    split <;> rfl

/-! ## The canonical form -/

theorem Memory.wf_iff (m : Memory) :
    m.wf = true ↔ m.Pairwise (fun x y => x.1 < y.1) ∧ ∀ x ∈ m, x.2 ≠ Memory.unlisted := by
  simp [Memory.wf]

theorem Memory.wf_nil : Memory.wf [] = true := rfl

theorem Memory.wf_erase {m : Memory} (h : m.wf = true) (off : Nat) : (m.erase off).wf = true := by
  rw [Memory.wf_iff] at h ⊢
  exact ⟨h.1.filter _, fun x hx => h.2 x (Memory.mem_erase.mp hx).1⟩

theorem Memory.mem_insert {m : Memory} {off : Nat} {v : Byte} {x : Host.Cell} :
    x ∈ Memory.insert m off v ↔ x = (off, v) ∨ x ∈ m := by
  induction m with
  | nil => simp [Memory.insert]
  | cons y rest ih =>
    obtain ⟨key, w⟩ := y
    simp only [Memory.insert]
    split
    · simp
    · simp only [List.mem_cons, ih]
      tauto

theorem Memory.wf_insert {m : Memory} (h : m.wf = true) {off : Nat} {v : Byte} (hv : v ≠ Memory.unlisted)
    (hoff : ∀ x ∈ m, x.1 ≠ off) : (Memory.insert m off v).wf = true := by
  rw [Memory.wf_iff] at h ⊢
  refine ⟨?_, fun x hx => ?_⟩
  · obtain ⟨hp, -⟩ := h
    induction m with
    | nil => simp [Memory.insert]
    | cons y rest ih =>
      obtain ⟨key, w⟩ := y
      have hkey : key ≠ off := hoff (key, w) (by simp)
      rw [List.pairwise_cons] at hp
      simp only [Memory.insert]
      split
      · rename_i hlt
        refine List.pairwise_cons.mpr ⟨fun z hz => ?_, List.pairwise_cons.mpr hp⟩
        rcases List.mem_cons.mp hz with rfl | hz
        · exact hlt
        · exact lt_trans hlt (hp.1 z hz)
      · refine List.pairwise_cons.mpr ⟨fun z hz => ?_, ih (fun z hz => hoff z (by simp [hz])) hp.2⟩
        rcases Memory.mem_insert.mp hz with rfl | hz
        · show key < off; omega
        · exact hp.1 z hz
  · rcases Memory.mem_insert.mp hx with rfl | hx
    · exact hv
    · exact h.2 x hx

/-- A write keeps the canonical form. -/
theorem Memory.wf_write {m : Memory} (h : m.wf = true) (off : Nat) (v : Byte) : (m.write off v).wf = true := by
  unfold Memory.write
  split
  · exact Memory.wf_erase h off
  · exact Memory.wf_insert (Memory.wf_erase h off) ‹_› fun x hx => (Memory.mem_erase.mp hx).2

theorem Memory.below_iff (m : Memory) (n : Nat) : m.below n = true ↔ ∀ x ∈ m, x.1 < n := by
  simp [Memory.below]

/-- A write below the bound keeps the bound. -/
theorem Memory.below_write {m : Memory} {n off : Nat} (h : m.below n = true) (hoff : off < n) (v : Byte) :
    (m.write off v).below n = true := by
  rw [Memory.below_iff] at h ⊢
  intro x hx
  unfold Memory.write at hx
  split at hx
  · exact h x (Memory.mem_erase.mp hx).1
  · rcases Memory.mem_insert.mp hx with rfl | hx
    · exact hoff
    · exact h x (Memory.mem_erase.mp hx).1

theorem Memory.ofBytes_key_ge (bytes : List Byte) (k : Nat) : ∀ x ∈ Memory.ofBytes k bytes, k ≤ x.1 := by
  induction bytes generalizing k with
  | nil => simp [Memory.ofBytes]
  | cons v rest ih =>
    intro x hx
    simp only [Memory.ofBytes] at hx
    split at hx
    · have := ih (k + 1) x hx; omega
    · rcases List.mem_cons.mp hx with rfl | hx
      · exact le_refl _
      · have := ih (k + 1) x hx; omega

/-- An image is loaded in canonical form. -/
theorem Memory.wf_ofBytes (bytes : List Byte) (k : Nat) : (Memory.ofBytes k bytes).wf = true := by
  rw [Memory.wf_iff]
  induction bytes generalizing k with
  | nil => simp [Memory.ofBytes]
  | cons v rest ih =>
    simp only [Memory.ofBytes]
    split
    · exact ih (k + 1)
    · refine ⟨List.pairwise_cons.mpr ⟨fun x hx => ?_, (ih (k + 1)).1⟩, fun x hx => ?_⟩
      · have := Memory.ofBytes_key_ge rest (k + 1) x hx
        show k < x.1
        omega
      · rcases List.mem_cons.mp hx with rfl | hx
        · assumption
        · exact (ih (k + 1)).2 x hx

theorem Memory.below_ofBytes (bytes : List Byte) (k : Nat) :
    (Memory.ofBytes k bytes).below (k + bytes.length) = true := by
  rw [Memory.below_iff]
  induction bytes generalizing k with
  | nil => simp [Memory.ofBytes]
  | cons v rest ih =>
    intro x hx
    simp only [Memory.ofBytes, List.length_cons] at hx ⊢
    split at hx
    · have := ih (k + 1) x hx; omega
    · rcases List.mem_cons.mp hx with rfl | hx
      · show k < _; omega
      · have := ih (k + 1) x hx; omega

theorem Memory.read_absent {m : Memory} {off : Nat} (h : ∀ x ∈ m, x.1 ≠ off) : m.read off = Memory.unlisted := by
  induction m with
  | nil => rfl
  | cons x rest ih =>
    obtain ⟨key, v⟩ := x
    have : key ≠ off := h (key, v) (by simp)
    simp only [Memory.read, if_neg this]
    exact ih fun y hy => h y (by simp [hy])

/-- A loaded image reads as the image. -/
theorem Memory.read_ofBytes (bytes : List Byte) (k j : Nat) (h : j < bytes.length) :
    (Memory.ofBytes k bytes).read (k + j) = bytes[j] := by
  induction bytes generalizing k j with
  | nil => simp at h
  | cons v rest ih =>
    simp only [Memory.ofBytes]
    rcases j with _ | j
    · have habs : (Memory.ofBytes (k + 1) rest).read (k + 0) = Memory.unlisted :=
        Memory.read_absent fun x hx => by have := Memory.ofBytes_key_ge rest (k + 1) x hx; omega
      split
      · rw [habs]; simp_all
      · simp [Memory.read]
    · have hlen : j < rest.length := by simpa using h
      have := ih (k + 1) j hlen
      rw [show k + 1 + j = k + (j + 1) by omega] at this
      split
      · simpa using this
      · rw [Memory.read, if_neg (by omega)]; simpa using this

/-- Equal memories are equal data: canonical lists that read alike at every offset are the same list. -/
theorem Memory.ext_read {m n : Memory} (hm : m.wf = true) (hn : n.wf = true)
    (h : ∀ off, m.read off = n.read off) : m = n := by
  rw [Memory.wf_iff] at hm hn
  induction m generalizing n with
  | nil =>
    cases n with
    | nil => rfl
    | cons y rest =>
      have := h y.1
      simp [Memory.read] at this
      exact absurd this.symm (hn.2 y (by simp))
  | cons x mrest ih =>
    obtain ⟨kx, vx⟩ := x
    have hmp := List.pairwise_cons.mp hm.1
    cases n with
    | nil =>
      have := h kx
      simp [Memory.read] at this
      exact absurd this (hm.2 (kx, vx) (by simp))
    | cons y nrest =>
      obtain ⟨ky, vy⟩ := y
      have hnp := List.pairwise_cons.mp hn.1
      have hkeys : kx = ky := by
        rcases lt_trichotomy kx ky with hlt | heq | hgt
        · exfalso
          have h1 := h kx
          have h2 : Memory.read ((ky, vy) :: nrest) kx = Memory.unlisted :=
            Memory.read_absent fun z hz => by
              rcases List.mem_cons.mp hz with rfl | hz
              · exact (Nat.ne_of_lt hlt).symm
              · have := hnp.1 z hz; simp only at this; omega
          rw [h2] at h1
          simp only [Memory.read, if_true] at h1
          exact hm.2 (kx, vx) (by simp) h1
        · exact heq
        · exfalso
          have h1 := h ky
          have h2 : Memory.read ((kx, vx) :: mrest) ky = Memory.unlisted :=
            Memory.read_absent fun z hz => by
              rcases List.mem_cons.mp hz with rfl | hz
              · exact (Nat.ne_of_lt hgt).symm
              · have := hmp.1 z hz; simp only at this; omega
          rw [h2] at h1
          simp only [Memory.read, if_true] at h1
          exact hn.2 (ky, vy) (by simp) h1.symm
      subst hkeys
      have hv : vx = vy := by simpa [Memory.read] using h kx
      subst hv
      congr 1
      refine ih ⟨hmp.2, fun z hz => hm.2 z (by simp [hz])⟩ ⟨hnp.2, fun z hz => hn.2 z (by simp [hz])⟩ fun off => ?_
      by_cases ho : kx = off
      · subst ho
        rw [Memory.read_absent fun z hz => by have := hmp.1 z hz; simp only at this; omega,
          Memory.read_absent fun z hz => by have := hnp.1 z hz; simp only at this; omega]
      · simpa [Memory.read, ho] using h off

theorem State.reset_rom_wf : State.reset.rom.wf = true := rfl

theorem State.reset_ram_wf : State.reset.ram.wf = true := rfl

end Sys2Proof.Machine
end

