-- ==== Sys2Proof/Laws/Access.lean ====
section
/-! SUPPORT. The Memory Interface Controller: where an access lands, what a read and a write answer, and that
nothing but the buffers decides it (20_memory.md R42 to R49). -/

namespace Sys2Proof.Machine

/-! ## Translation -/

/-- Everything `translateAddr` can answer (R41, R42). -/
theorem translateAddr_cases (addr : Addr) :
    (translateAddr addr = some (.rom, addr.toNat) ∧ 0 < addr.toNat ∧ addr.toNat < 0x8000) ∨
    (translateAddr addr = some (.ram, addr.toNat - 0xC000) ∧ 0xC000 < addr.toNat ∧ addr.toNat < 0xE000) ∨
    (translateAddr addr = some (.ram, addr.toNat - 0xE000) ∧ 0xE000 < addr.toNat ∧ addr.toNat < 0xFE00) ∨
    (translateAddr addr = none ∧ (addr.toNat = 0 ∨ 0x8000 ≤ addr.toNat ∧ addr.toNat ≤ 0xC000 ∨
      addr.toNat = 0xE000 ∨ 0xFE00 ≤ addr.toNat)) := by
  have h0 := addr.isLt
  unfold translateAddr
  split
  · right; right; right; exact ⟨rfl, by omega⟩
  split
  · left; exact ⟨rfl, by omega, by omega⟩
  split
  · right; left; exact ⟨rfl, by omega, by omega⟩
  split
  · right; right; left; exact ⟨rfl, by omega, by omega⟩
  · right; right; right; exact ⟨rfl, by omega⟩

/-- The ROM window. -/
theorem translateAddr_rom {addr : Addr} (h1 : 0 < addr.toNat) (h2 : addr.toNat < 0x8000) :
    translateAddr addr = some (.rom, addr.toNat) := by
  unfold translateAddr
  rw [if_neg (by omega), if_pos h2]

/-- The first RAM window. -/
theorem translateAddr_ram {addr : Addr} (h1 : 0xC000 < addr.toNat) (h2 : addr.toNat < 0xE000) :
    translateAddr addr = some (.ram, addr.toNat - 0xC000) := by
  unfold translateAddr
  rw [if_neg (by omega), if_neg (by omega), if_pos ⟨h1, h2⟩]

/-- The second RAM window. -/
theorem translateAddr_mirror {addr : Addr} (h1 : 0xE000 < addr.toNat) (h2 : addr.toNat < 0xFE00) :
    translateAddr addr = some (.ram, addr.toNat - 0xE000) := by
  unfold translateAddr
  rw [if_neg (by omega), if_neg (by omega), if_neg (by omega), if_pos ⟨h1, h2⟩]

/-- Where an offset can lie: the ROM offset is the address itself, a RAM offset is inside the buffer. -/
theorem translateAddr_bounds {addr : Addr} {region : Region} {off : Nat}
    (h : translateAddr addr = some (region, off)) :
    0 < off ∧ (region = .rom → off = addr.toNat ∧ off < 0x8000) ∧ (region = .ram → off < Config.ramSize) := by
  have hlt := addr.isLt
  rcases translateAddr_cases addr with ⟨g, g1, g2⟩ | ⟨g, g1, g2⟩ | ⟨g, g1, g2⟩ | ⟨g, -⟩ <;> rw [h] at g <;> cases g <;>
    simp [Config.ramSize] <;> omega

/-- Everything `locate` can answer (R45, R46). -/
theorem State.locate_cases (s : State) (addr : Addr) :
    (∃ loc, s.locate addr = .ok loc ∧ translateAddr addr = some loc ∧ (loc.1 = .rom → loc.2 < s.romLen)) ∨
    (s.locate addr = .error (invalidAddress addr) ∧ translateAddr addr = none) ∨
    (s.locate addr = .error (romRange addr) ∧ ∃ off, translateAddr addr = some (.rom, off) ∧ s.romLen ≤ off) := by
  unfold State.locate
  rcases h : translateAddr addr with _ | ⟨_ | _, off⟩
  · exact .inr (.inl ⟨rfl, rfl⟩)
  · by_cases hoff : s.romLen ≤ off
    · exact .inr (.inr ⟨by simp [hoff], off, rfl, hoff⟩)
    · exact .inl ⟨(.rom, off), by simp [hoff], rfl, fun _ => by simpa using hoff⟩
  · exact .inl ⟨(.ram, off), rfl, rfl, by simp⟩

theorem State.translate_of_locate {s : State} {addr : Addr} {loc : Region × Nat} (h : s.locate addr = .ok loc) :
    translateAddr addr = some loc := by
  rcases s.locate_cases addr with ⟨l, hl, ht, -⟩ | ⟨hl, -⟩ | ⟨hl, -⟩ <;> rw [h] at hl <;> cases hl
  exact ht

/-- A failed access names its own address (60_exceptions.md R222, R226). -/
theorem State.locate_error {s : State} {addr : Addr} {t : Trap} (h : s.locate addr = .error t) :
    t = invalidAddress addr ∨ t = romRange addr := by
  rcases s.locate_cases addr with ⟨l, hl, -, -⟩ | ⟨hl, -⟩ | ⟨hl, -⟩ <;> rw [h] at hl <;> cases hl
  · exact .inl rfl
  · exact .inr rfl

/-! ## Reads and writes through `locate` -/

theorem State.readByte_ok {s : State} {addr : Addr} {v : Byte} :
    s.readByte addr = .ok v ↔ ∃ loc, s.locate addr = .ok loc ∧ s.buffer loc = v := by
  unfold State.readByte
  rcases s.locate addr with t | loc <;> simp

theorem State.readByte_error {s : State} {addr : Addr} {t : Trap} :
    s.readByte addr = .error t ↔ s.locate addr = .error t := by
  unfold State.readByte
  rcases s.locate addr with e | loc <;> simp

theorem State.writeByte_ok {s t : State} {addr : Addr} {v : Byte} :
    s.writeByte addr v = .ok t ↔ ∃ loc, s.locate addr = .ok loc ∧ t = s.setBuffer loc v := by
  unfold State.writeByte
  rcases s.locate addr with e | loc <;> simp [eq_comm]

theorem State.writeByte_error {s : State} {addr : Addr} {v : Byte} {t : Trap} :
    s.writeByte addr v = .error t ↔ s.locate addr = .error t := by
  unfold State.writeByte
  rcases s.locate addr with e | loc <;> simp

/-- An address can be written exactly when it can be read, and both fail alike. -/
theorem State.writeByte_error_iff_readByte {s : State} {addr : Addr} {v : Byte} {t : Trap} :
    s.writeByte addr v = .error t ↔ s.readByte addr = .error t := by
  rw [State.writeByte_error, State.readByte_error]

theorem State.writeByte_of_readByte {s : State} {addr : Addr} {v : Byte} (w : Byte) (h : s.readByte addr = .ok v) :
    ∃ loc, s.locate addr = .ok loc ∧ s.writeByte addr w = .ok (s.setBuffer loc w) := by
  obtain ⟨loc, hl, -⟩ := State.readByte_ok.mp h
  exact ⟨loc, hl, State.writeByte_ok.mpr ⟨loc, hl, rfl⟩⟩

theorem State.buffer_setBuffer (s : State) (l k : Region × Nat) (v : Byte) :
    (s.setBuffer l v).buffer k = if k = l then v else s.buffer k := by
  obtain ⟨lr, lo⟩ := l
  obtain ⟨kr, ko⟩ := k
  cases lr <;> cases kr <;> simp [State.setBuffer, State.buffer]

@[simp] theorem State.setBuffer_locate (s : State) (l : Region × Nat) (v : Byte) (addr : Addr) :
    (s.setBuffer l v).locate addr = s.locate addr := by
  simp [State.locate]

/-- A read after a write, through any address: the byte written where both select one byte of a buffer, the old
byte elsewhere (R43, R46). -/
theorem State.readByte_writeByte {s t : State} {addr : Addr} {v : Byte} (h : s.writeByte addr v = .ok t) (k : Addr) :
    t.readByte k = if translateAddr k = translateAddr addr then .ok v else s.readByte k := by
  obtain ⟨loc, hl, rfl⟩ := State.writeByte_ok.mp h
  have htr := State.translate_of_locate hl
  by_cases hk : translateAddr k = translateAddr addr
  · have hloc : s.locate k = .ok loc := by
      rw [← hl]
      rcases s.locate_cases addr with ⟨l, h1, h2, h3⟩ | ⟨h1, -⟩ | ⟨h1, -⟩ <;> rw [hl] at h1 <;> cases h1
      rcases s.locate_cases k with ⟨l', g1, g2, -⟩ | ⟨g1, g2⟩ | ⟨g1, off, g2, g3⟩
      · rw [g1, hl]; rw [hk, htr] at g2; cases g2; rfl
      · rw [hk, htr] at g2; cases g2
      · rw [hk, htr] at g2; cases g2; exact absurd (h3 rfl) (by simpa using g3)
    rw [if_pos hk, State.readByte_ok]
    exact ⟨loc, by simpa using hloc, by simp [State.buffer_setBuffer]⟩
  · rw [if_neg hk]
    unfold State.readByte
    simp only [State.setBuffer_locate]
    rcases hkl : s.locate k with e | l
    · rfl
    · have : l ≠ loc := by
        rintro rfl
        exact hk (by rw [State.translate_of_locate hkl, htr])
      simp [State.buffer_setBuffer, this]

/-! ## A read depends on the buffers alone -/

theorem State.readByte_congr {s t : State} (hl : s.romLen = t.romLen) (hrom : s.rom = t.rom) (hram : s.ram = t.ram)
    (addr : Addr) : s.readByte addr = t.readByte addr := by
  simp only [State.readByte, State.locate, State.buffer, hl, hrom, hram]

@[simp] theorem State.setR8_readByte (s : State) (r : Reg8) (v : Byte) (addr : Addr) :
    (s.setR8 r v).readByte addr = s.readByte addr := State.readByte_congr (by simp) (by simp) (by simp) addr

@[simp] theorem State.setPair_readByte (s : State) (p : Pair) (v : Word) (addr : Addr) :
    (s.setPair p v).readByte addr = s.readByte addr := State.readByte_congr (by simp) (by simp) (by simp) addr

@[simp] theorem State.writeReg_readByte (s : State) (n : RegName) (v : Word) (addr : Addr) :
    (s.writeReg n v).readByte addr = s.readByte addr := State.readByte_congr (by simp) (by simp) (by simp) addr

@[simp] theorem State.setZ_readByte (s : State) (v : Bool) (addr : Addr) :
    (s.setZ v).readByte addr = s.readByte addr := rfl

@[simp] theorem State.setCy_readByte (s : State) (v : Bool) (addr : Addr) :
    (s.setCy v).readByte addr = s.readByte addr := rfl

@[simp] theorem State.setPc_readByte (s : State) (v : Addr) (addr : Addr) :
    (s.setPc v).readByte addr = s.readByte addr := rfl

@[simp] theorem State.advance_readByte (s : State) (n : Nat) (addr : Addr) :
    (s.advance n).readByte addr = s.readByte addr := rfl

@[simp] theorem State.advance_readWord (s : State) (n : Nat) (addr : Addr) :
    (s.advance n).readWord addr = s.readWord addr := rfl

@[simp] theorem State.advance_locate (s : State) (n : Nat) (addr : Addr) :
    (s.advance n).locate addr = s.locate addr := rfl

@[simp] theorem State.takeHalt_readByte (s : State) (ph : Phase) (pc0 : Addr) (op : Option Byte) (t : Trap) (addr : Addr) :
    (s.takeHalt ph pc0 op t).readByte addr = s.readByte addr := rfl

/-! ## Words -/

/-- Everything a word read can answer (R47). -/
theorem State.readWord_cases (s : State) (addr : Addr) :
    (∃ lo hi, s.readByte addr = .ok lo ∧ s.readByte (addr + 1#16) = .ok hi ∧ s.readWord addr = .ok (composeWord hi lo)) ∨
    (∃ t, s.readByte addr = .error t ∧ s.readWord addr = .error t) ∨
    (∃ lo t, s.readByte addr = .ok lo ∧ s.readByte (addr + 1#16) = .error t ∧ s.readWord addr = .error t) := by
  unfold State.readWord
  rcases s.readByte addr with t | lo
  · exact .inr (.inl ⟨t, rfl, rfl⟩)
  · rcases s.readByte (addr + 1#16) with t | hi
    · exact .inr (.inr ⟨lo, t, rfl, rfl, rfl⟩)
    · exact .inl ⟨lo, hi, rfl, rfl, rfl⟩

/-- Everything a word write can answer (R48). -/
theorem State.writeWord_cases (s : State) (addr : Addr) (v : Word) :
    (∃ s1 s2, s.writeByte (addr + 1#16) (highByte v) = .ok s1 ∧ s1.writeByte addr (lowByte v) = .ok s2 ∧
      s.writeWord addr v = .done s2) ∨
    (∃ t, s.writeByte (addr + 1#16) (highByte v) = .error t ∧ s.writeWord addr v = .raised t s) ∨
    (∃ s1 t, s.writeByte (addr + 1#16) (highByte v) = .ok s1 ∧ s1.writeByte addr (lowByte v) = .error t ∧
      s.writeWord addr v = .raised t s1) := by
  unfold State.writeWord
  rcases s.writeByte (addr + 1#16) (highByte v) with t | s1
  · exact .inr (.inl ⟨t, rfl, rfl⟩)
  · rcases h : s1.writeByte addr (lowByte v) with t | s2
    · exact .inr (.inr ⟨s1, t, rfl, h, by simp [h]⟩)
    · exact .inl ⟨s1, s2, rfl, h, by simp [h]⟩

/-- A byte write changes its buffer alone (R46). -/
theorem State.writeByte_frame {s t : State} {addr : Addr} {v : Byte} (h : s.writeByte addr v = .ok t) :
    (∀ r, t.r8 r = s.r8 r) ∧ t.z = s.z ∧ t.cy = s.cy ∧ t.pc = s.pc ∧ t.romLen = s.romLen ∧
      t.status = s.status ∧ t.haltRec = s.haltRec := by
  obtain ⟨loc, -, rfl⟩ := State.writeByte_ok.mp h
  simp

/-- A word write changes the buffers alone, however it ends (R48). -/
theorem State.writeWord_frame {s t : State} {addr : Addr} {v : Word}
    (h : s.writeWord addr v = .done t ∨ ∃ e, s.writeWord addr v = .raised e t) :
    (∀ r, t.r8 r = s.r8 r) ∧ t.z = s.z ∧ t.cy = s.cy ∧ t.pc = s.pc ∧ t.romLen = s.romLen ∧
      t.status = s.status ∧ t.haltRec = s.haltRec := by
  rcases s.writeWord_cases addr v with ⟨s1, s2, h1, h2, h3⟩ | ⟨e, -, h3⟩ | ⟨s1, e, h1, -, h3⟩ <;>
    simp only [h3, Result.done.injEq, Result.raised.injEq, reduceCtorEq, false_or, exists_false, or_false] at h
  · subst h
    have f1 := State.writeByte_frame h1
    have f2 := State.writeByte_frame h2
    simp_all
  · obtain ⟨-, -, rfl⟩ := h
    simp
  · obtain ⟨-, -, rfl⟩ := h
    exact State.writeByte_frame h1

/-- Two neighbouring addresses never select one byte. -/
theorem translateAddr_succ_ne {addr : Addr} {loc : Region × Nat} (h : translateAddr addr = some loc) :
    translateAddr (addr + 1#16) ≠ some loc := by
  intro h'
  have hlt := addr.isLt
  have hsucc : (addr + 1#16).toNat = (addr.toNat + 1) % 65536 := by simp [BitVec.toNat_add]
  rcases translateAddr_cases addr with ⟨h1, h2, h3⟩ | ⟨h1, h2, h3⟩ | ⟨h1, h2, h3⟩ | ⟨h1, h2⟩ <;>
    rcases translateAddr_cases (addr + 1#16) with ⟨g1, g2, g3⟩ | ⟨g1, g2, g3⟩ | ⟨g1, g2, g3⟩ | ⟨g1, g2⟩ <;>
    rw [h] at h1 <;> rw [h'] at g1 <;> simp_all <;> omega

/-! ## The canonical form -/

/-- Both buffers are in canonical form. -/
def State.buffersWf (s : State) : Prop := s.rom.wf = true ∧ s.ram.wf = true

theorem State.reset_buffersWf : State.reset.buffersWf := ⟨rfl, rfl⟩

theorem State.resetWith_buffersWf (image : List Byte) : (State.resetWith image).buffersWf :=
  ⟨Memory.wf_ofBytes image 0, Memory.wf_nil⟩

theorem State.setBuffer_buffersWf {s : State} (h : s.buffersWf) (loc : Region × Nat) (v : Byte) :
    (s.setBuffer loc v).buffersWf := by
  obtain ⟨region, off⟩ := loc
  cases region
  · exact ⟨Memory.wf_write h.1 off v, h.2⟩
  · exact ⟨h.1, Memory.wf_write h.2 off v⟩

theorem State.writeByte_buffersWf {s t : State} {addr : Addr} {v : Byte} (h : s.buffersWf)
    (hw : s.writeByte addr v = .ok t) : t.buffersWf := by
  obtain ⟨loc, -, rfl⟩ := State.writeByte_ok.mp hw
  exact State.setBuffer_buffersWf h loc v

/-- A word write keeps the form however it ends: completed, failed before its first byte, or after it. -/
theorem State.writeWord_buffersWf {s t : State} {addr : Addr} {v : Word} (h : s.buffersWf)
    (hw : s.writeWord addr v = .done t ∨ ∃ e, s.writeWord addr v = .raised e t) : t.buffersWf := by
  rcases s.writeWord_cases addr v with ⟨s1, s2, h1, h2, h3⟩ | ⟨e, -, h3⟩ | ⟨s1, e, h1, -, h3⟩ <;>
    simp only [h3, Result.done.injEq, Result.raised.injEq, reduceCtorEq, false_or, exists_false, or_false] at hw
  · subst hw; exact State.writeByte_buffersWf (State.writeByte_buffersWf h h1) h2
  · obtain ⟨-, -, rfl⟩ := hw; exact h
  · obtain ⟨-, -, rfl⟩ := hw; exact State.writeByte_buffersWf h h1

theorem State.placeBytes_buffersWf {s : State} (h : s.buffersWf) (addr : Addr) (bytes : List Byte) :
    (s.placeBytes addr bytes).buffersWf := by
  induction bytes generalizing s addr with
  | nil => exact h
  | cons v rest ih =>
    simp only [State.placeBytes]
    split
    · exact ih h _
    · exact ih (State.writeByte_buffersWf h ‹_›) _

/-! ## A write moves nothing but the buffers -/

theorem State.setBuffer_advance (s : State) (n : Nat) (loc : Region × Nat) (v : Byte) :
    (s.advance n).setBuffer loc v = (s.setBuffer loc v).advance n := by
  obtain ⟨region, off⟩ := loc
  cases region <;> rfl

theorem State.writeByte_pair {s t : State} {addr : Addr} {v : Byte} (h : s.writeByte addr v = .ok t) (p : Pair) :
    t.pair p = s.pair p := by
  obtain ⟨loc, -, rfl⟩ := State.writeByte_ok.mp h
  simp [State.pair]

end Sys2Proof.Machine
end

