-- ==== Sys2Proof/Laws/Decode.lean ====
section
/-! SUPPORT. The Decoder against the encoder: which bytes give a row, and which row some bytes give. -/

namespace Sys2Proof

/-- Only the CB forms begin with the prefix. -/
theorem Form.opcode_prefix_iff (f : Form) : f.opcode = cbPrefix ↔ f.format = .fcb := by
  cases f <;> first | decide | (rename_i x; revert x; intro x; cases x <;> decide) | skip
  rename_i x y; cases x <;> cases y <;> decide

/-- A row is decoded from its own opcode bytes (30_encoding.md R78, R79). -/
theorem decode_row (i : Instr) (sub : Byte) (h : i.form.format = .fcb → sub = i.form.subOpcode) :
    decode .extended i.form.opcode sub = .row i := by
  cases i
  all_goals first | rfl | (have h' := h rfl; subst h'; rfl)

/-- The rows of the one-byte map stand at their own opcode. -/
theorem oneByteRow_opcode : ∀ op : Byte, ∀ i, oneByteRow op = some i → i.form.opcode = op ∧ i.form.format ≠ .fcb := by
  have key : ∀ op : Byte, (oneByteRow op).all (fun i => i.form.opcode == op && i.form.format != .fcb) = true := by
    decide
  intro op i h
  have := key op
  rw [h] at this
  simpa using this

/-- The CB rows stand at their own sub-opcode. -/
theorem cbRow_subOpcode : ∀ sub : Byte, ∀ i, cbRow sub = some i →
    i.form.opcode = cbPrefix ∧ i.form.subOpcode = sub ∧ i.form.format = .fcb := by
  have key : ∀ sub : Byte, (cbRow sub).all (fun i =>
      i.form.opcode == cbPrefix && i.form.subOpcode == sub && i.form.format == .fcb) = true := by
    decide
  intro sub i h
  have := key sub
  rw [h] at this
  simpa [and_assoc] using this

/-- Bytes that decode to a row are that row's opcode bytes. -/
theorem decode_row_inv {op sub : Byte} {i : Instr} (h : decode .extended op sub = .row i) :
    op = i.form.opcode ∧ (i.form.format = .fcb → sub = i.form.subOpcode) := by
  simp only [decode] at h
  split at h
  · rename_i hop
    rcases hr : cbRow sub with _ | j <;> rw [hr] at h <;> simp only [Decoded.row.injEq, reduceCtorEq] at h
    subst h
    obtain ⟨h1, h2, -⟩ := cbRow_subOpcode sub j hr
    exact ⟨by rw [hop, h1], fun _ => h2.symm⟩
  · rcases hr : oneByteRow op with _ | j <;> rw [hr] at h <;> simp only [Decoded.row.injEq, reduceCtorEq] at h
    subst h
    obtain ⟨h1, h2⟩ := oneByteRow_opcode op j hr
    exact ⟨h1.symm, fun hf => absurd hf h2⟩

/-- Two rows of one form are one row. -/
theorem Instr.form_injective {i j : Instr} (h : i.form = j.form) : i = j := by
  have hi := decode_row i i.form.subOpcode fun _ => rfl
  have hj := decode_row j j.form.subOpcode fun _ => rfl
  rw [h] at hi
  exact Decoded.row.inj (hi.symm.trans hj)

theorem Profile.readsSecond_iff (p : Profile) (op : Byte) :
    p.readsSecond op = true ↔ p = .extended ∧ op = cbPrefix := by
  cases p <;> simp [Profile.readsSecond]

/-- The rows of the minimal profile are rows of the extended one (R84). -/
theorem decode_minimal_row {op sub : Byte} {i : Instr} (h : decode .minimal op sub = .row i) :
    decode .extended op sub = .row i := by
  simp only [decode, minimalRow] at h
  split_ifs at h with h1 h2 h3 <;> cases h
  · subst h1; rfl
  · subst h2; rfl
  · subst h3; rfl

end Sys2Proof
end

