-- ==== Sys2Proof/Laws/Executor.lean ====
section
/-! SUPPORT. The Operand Resolver and the Executor: what each shared operation can do, said once. -/

namespace Sys2Proof.Machine

/-! ## Operands -/

@[simp] theorem getOperand_reg (n : RegName) (s : State) : getOperand (.reg n) s = .ok (s.readReg n) := rfl

@[simp] theorem setOperand_reg (n : RegName) (v : Word) (s : State) :
    setOperand (.reg n) v s = .done (s.writeReg n v) := rfl

theorem getOperand_absByte_ok {addr : Addr} {s : State} {v : Byte} (h : s.readByte addr = .ok v) :
    getOperand (.absByte addr) s = .ok (zext16 v) := by simp [getOperand, getAbsByte, h]

theorem getOperand_absByte_error {addr : Addr} {s : State} {t : Trap} (h : s.readByte addr = .error t) :
    getOperand (.absByte addr) s = .error t := by simp [getOperand, getAbsByte, h]

theorem getOperand_indByte_ok {n : RegName} {s : State} {v : Byte} (h : s.readByte (s.readReg n) = .ok v) :
    getOperand (.indByte n) s = .ok (zext16 v) := by simp [getOperand, getAbsByte, h]

theorem getOperand_indByte_error {n : RegName} {s : State} {t : Trap} (h : s.readByte (s.readReg n) = .error t) :
    getOperand (.indByte n) s = .error t := by simp [getOperand, getAbsByte, h]

theorem setOperand_indByte_ok {n : RegName} {s : State} {v : Word} {loc : Region × Nat}
    (h : s.locate (s.readReg n) = .ok loc) :
    setOperand (.indByte n) v s = .done (s.setBuffer loc (lowByte v)) := by
  simp [setOperand, liftWrite, State.writeByte, h]

theorem setOperand_indByte_error {n : RegName} {s : State} {v : Word} {t : Trap}
    (h : s.locate (s.readReg n) = .error t) : setOperand (.indByte n) v s = .raised t s := by
  simp [setOperand, liftWrite, State.writeByte, h]

/-- A condition operand is nonzero exactly when the condition holds (40_step_operands.md R117). -/
theorem getOperand_cond (cc : Cond) (s : State) : getOperand cc.operand s = .ok (boolWord (s.condHolds cc)) := by
  cases cc <;> rfl

theorem boolWord_eq_zero (v : Bool) : boolWord v = 0#16 ↔ v = false := by cases v <;> decide

/-! ## Parts of an instruction in sequence -/

@[simp] theorem Result.andThen_done (s : State) (k : State → Result) : (Result.done s).andThen k = k s := rfl

@[simp] theorem Result.andThen_raised (t : Trap) (s : State) (k : State → Result) :
    (Result.raised t s).andThen k = .raised t s := rfl

theorem withOperand_ok {o : Operand} {s : State} {v : Word} (h : getOperand o s = .ok v) (k : Word → Result) :
    withOperand o s k = k v := by simp [withOperand, h]

theorem withOperand_error {o : Operand} {s : State} {t : Trap} (h : getOperand o s = .error t) (k : Word → Result) :
    withOperand o s k = .raised t s := by simp [withOperand, h]

/-- Everything an operand read inside an instruction can do. -/
theorem withOperand_cases (o : Operand) (s : State) (k : Word → Result) :
    (∃ v, getOperand o s = .ok v ∧ withOperand o s k = k v) ∨
    (∃ t, getOperand o s = .error t ∧ withOperand o s k = .raised t s) := by
  unfold withOperand
  rcases getOperand o s with t | v
  · exact .inr ⟨t, rfl, rfl⟩
  · exact .inl ⟨v, rfl, rfl⟩

@[simp] theorem executeSeq_nil (s : State) : executeSeq [] s = .done s := by simp [executeSeq]

@[simp] theorem executeSeq_cons (r : Record) (rest : List Record) (s : State) :
    executeSeq (r :: rest) s = (execute r s).andThen fun t => executeSeq rest t := by simp [executeSeq]

@[simp] theorem finish_done (pc0 : Addr) (op : Byte) (t : State) : finish pc0 op (.done t) = .next t := rfl

@[simp] theorem finish_raised (pc0 : Addr) (op : Byte) (e : Trap) (t : State) :
    finish pc0 op (.raised e t) = .next (t.takeHalt .execute pc0 (some op) e) := rfl

/-- The end of Execute is always a next state (00_scope.md R7). -/
theorem finish_next (pc0 : Addr) (op : Byte) (r : Result) : ∃ t, finish pc0 op r = .next t := by
  cases r
  · exact ⟨_, rfl⟩
  · exact ⟨_, rfl⟩

/-! ## The kinds on the operands the rows have -/

/-- A register operand read, then the rest. -/
@[simp] theorem withOperand_reg (n : RegName) (s : State) (k : Word → Result) :
    withOperand (.reg n) s k = k (s.readReg n) := rfl

@[simp] theorem withOperand_cond (cc : Cond) (s : State) (k : Word → Result) :
    withOperand cc.operand s k = k (boolWord (s.condHolds cc)) := withOperand_ok (getOperand_cond cc s) k

@[simp] theorem withOperand_always (s : State) (k : Word → Result) :
    withOperand (.flag .always) s k = k 1#16 := rfl

/-! The operands of the rows, after Advance-PC: each reads what the state before it holds. -/

section AfterAdvance

variable {s t : State} {n : Nat} {p : Pair} {addr : Addr} {v lo hi : Byte} {w : Word} {e : Trap} {k : Word → Result}

theorem withOperand_indByte_ok (h : s.readByte (s.pair p) = .ok v) :
    withOperand (.indByte (.pair p)) (s.advance n) k = k (zext16 v) :=
  withOperand_ok (getOperand_indByte_ok (by simpa [State.readReg] using h)) k

theorem withOperand_indByte_error (h : s.readByte (s.pair p) = .error e) :
    withOperand (.indByte (.pair p)) (s.advance n) k = .raised e (s.advance n) :=
  withOperand_error (getOperand_indByte_error (by simpa [State.readReg] using h)) k

theorem withOperand_absByte_ok (h : s.readByte addr = .ok v) :
    withOperand (.absByte addr) (s.advance n) k = k (zext16 v) :=
  withOperand_ok (getOperand_absByte_ok (by simpa using h)) k

theorem withOperand_absByte_error (h : s.readByte addr = .error e) :
    withOperand (.absByte addr) (s.advance n) k = .raised e (s.advance n) :=
  withOperand_error (getOperand_absByte_error (by simpa using h)) k

theorem withOperand_absWord_ok (h : s.readByte addr = .ok lo) (h' : s.readByte (addr + 1#16) = .ok hi) :
    withOperand (.absWord addr) (s.advance n) k = k (composeWord hi lo) :=
  withOperand_ok (by simp [getOperand, State.readWord, h, h']) k

theorem withOperand_absWord_error_low (h : s.readByte addr = .error e) :
    withOperand (.absWord addr) (s.advance n) k = .raised e (s.advance n) :=
  withOperand_error (by simp [getOperand, State.readWord, h]) k

theorem withOperand_absWord_error_high (h : s.readByte addr = .ok lo) (h' : s.readByte (addr + 1#16) = .error e) :
    withOperand (.absWord addr) (s.advance n) k = .raised e (s.advance n) :=
  withOperand_error (by simp [getOperand, State.readWord, h, h']) k

theorem withOperand_rel_ok (h : s.readByte addr = .ok v) :
    withOperand (.rel addr) (s.advance n) k = k (s.pc + BitVec.ofNat 16 n + sext16 v) :=
  withOperand_ok (by simp [getOperand, getRel, h]) k

theorem withOperand_rel_error (h : s.readByte addr = .error e) :
    withOperand (.rel addr) (s.advance n) k = .raised e (s.advance n) :=
  withOperand_error (by simp [getOperand, getRel, h]) k

theorem setOperand_indByte_advance_ok (h : s.writeByte (s.pair p) (lowByte w) = .ok t) :
    setOperand (.indByte (.pair p)) w (s.advance n) = .done (t.advance n) := by
  obtain ⟨loc, hl, rfl⟩ := State.writeByte_ok.mp h
  rw [setOperand_indByte_ok (loc := loc) (by simpa [State.readReg] using hl), State.setBuffer_advance]

theorem setOperand_indByte_advance_error (h : s.writeByte (s.pair p) (lowByte w) = .error e) :
    setOperand (.indByte (.pair p)) w (s.advance n) = .raised e (s.advance n) := by
  rw [setOperand_indByte_error]
  simpa [State.readReg] using State.writeByte_error.mp h

end AfterAdvance

/-- A jump on a condition of the table (43_control.md R190). -/
theorem runJump_cond (cc : Cond) (target : Operand) (s : State) :
    runJump cc.operand target s =
      if s.condHolds cc then withOperand target s fun t => .done (s.setPc t) else .done s := by
  simp only [runJump, withOperand_cond, boolWord_eq_zero]
  cases s.condHolds cc <;> simp

theorem runJump_always (target : Operand) (s : State) :
    runJump (.flag .always) target s = withOperand target s fun t => .done (s.setPc t) := by
  simp [runJump]

/-- Two parts of a Stacked list in sequence (44_misc.md R212). -/
theorem executeSeq_append (before after : List Record) (s : State) :
    executeSeq (before ++ after) s = (executeSeq before s).andThen (executeSeq after) := by
  induction before generalizing s with
  | nil => simp
  | cons r rest ih =>
    simp only [List.cons_append, executeSeq_cons]
    rcases execute r s with t | ⟨e, t⟩
    · simp [ih]
    · simp

/-- The zero test of Dec on a byte is that of the byte (42_alu.md R164). -/
theorem decZero_byte (v : Word) : decZero 8 v = (lowByte v == 0#8) := rfl

theorem decZero_word (v : Word) : decZero 16 v = (v == 0#16) := by simp [decZero]

end Sys2Proof.Machine
end

