-- ==== Sys2Proof/Laws/PerInstr.lean ====
section
/-! SUPPORT. The per-instruction family RoundTrip (LAWS.json): the opcode bytes the encoder writes for a row are
decoded to that row, with the length of its encoding, whatever operand bytes follow. One lemma per row. -/

namespace Sys2Proof.Laws.RoundTrip

/-- The encoding of `i` with any operand, whatever bytes follow it, decodes to `i` and is as long as the Decoder
reports. -/
def Statement (i : Instr) : Prop :=
  ∀ (imm : Word) (rest : List Byte),
    decodeStream .extended (encode i imm ++ rest) = .ok (i, (encode i imm).length)

/-- The CB forms: the Decoder reads the second byte. -/
theorem of_prefixed (i : Instr) (h : i.form.format = .fcb) : Statement i := by
  intro imm rest
  have hop : i.form.opcode = cbPrefix := i.form.opcode_prefix_iff.mpr h
  have henc : encode i imm = [i.form.opcode, i.form.subOpcode] := by
    simp [encode, Form.opcodeBytes, h, Format.operandBytes]
  have hlen : i.form.length = 2 := by rw [Form.length, h]; rfl
  simp [henc, decodeStream, decode_row i i.form.subOpcode fun _ => rfl, hlen]

theorem nop : Statement .nop := fun _ _ => rfl
theorem ldBC_d16 : Statement .ldBC_d16 := fun _ _ => rfl
theorem ldIndBC_A : Statement .ldIndBC_A := fun _ _ => rfl
theorem incBC : Statement .incBC := fun _ _ => rfl
theorem incB : Statement .incB := fun _ _ => rfl
theorem decB : Statement .decB := fun _ _ => rfl
theorem ldB_d8 : Statement .ldB_d8 := fun _ _ => rfl
theorem addHL_BC : Statement .addHL_BC := fun _ _ => rfl
theorem ldA_indBC : Statement .ldA_indBC := fun _ _ => rfl
theorem decBC : Statement .decBC := fun _ _ => rfl
theorem incC : Statement .incC := fun _ _ => rfl
theorem decC : Statement .decC := fun _ _ => rfl
theorem ldC_d8 : Statement .ldC_d8 := fun _ _ => rfl
theorem ldDE_d16 : Statement .ldDE_d16 := fun _ _ => rfl
theorem ldIndDE_A : Statement .ldIndDE_A := fun _ _ => rfl
theorem incDE : Statement .incDE := fun _ _ => rfl
theorem incD : Statement .incD := fun _ _ => rfl
theorem decD : Statement .decD := fun _ _ => rfl
theorem ldD_d8 : Statement .ldD_d8 := fun _ _ => rfl
theorem jr_r8 : Statement .jr_r8 := fun _ _ => rfl
theorem addHL_DE : Statement .addHL_DE := fun _ _ => rfl
theorem ldA_indDE : Statement .ldA_indDE := fun _ _ => rfl
theorem decDE : Statement .decDE := fun _ _ => rfl
theorem incE : Statement .incE := fun _ _ => rfl
theorem decE : Statement .decE := fun _ _ => rfl
theorem ldE_d8 : Statement .ldE_d8 := fun _ _ => rfl
theorem jrNZ_r8 : Statement .jrNZ_r8 := fun _ _ => rfl
theorem ldHL_d16 : Statement .ldHL_d16 := fun _ _ => rfl
theorem ldIndHLInc_A : Statement .ldIndHLInc_A := fun _ _ => rfl
theorem incHL : Statement .incHL := fun _ _ => rfl
theorem incH : Statement .incH := fun _ _ => rfl
theorem decH : Statement .decH := fun _ _ => rfl
theorem ldH_d8 : Statement .ldH_d8 := fun _ _ => rfl
theorem jrZ_r8 : Statement .jrZ_r8 := fun _ _ => rfl
theorem addHL_HL : Statement .addHL_HL := fun _ _ => rfl
theorem ldA_indHLInc : Statement .ldA_indHLInc := fun _ _ => rfl
theorem decHL : Statement .decHL := fun _ _ => rfl
theorem incL : Statement .incL := fun _ _ => rfl
theorem decL : Statement .decL := fun _ _ => rfl
theorem ldL_d8 : Statement .ldL_d8 := fun _ _ => rfl
theorem cpl : Statement .cpl := fun _ _ => rfl
theorem jrNC_r8 : Statement .jrNC_r8 := fun _ _ => rfl
theorem ldIndHLDec_A : Statement .ldIndHLDec_A := fun _ _ => rfl
theorem incIndHL : Statement .incIndHL := fun _ _ => rfl
theorem decIndHL : Statement .decIndHL := fun _ _ => rfl
theorem ldIndHL_d8 : Statement .ldIndHL_d8 := fun _ _ => rfl
theorem jrC_r8 : Statement .jrC_r8 := fun _ _ => rfl
theorem ldA_indHLDec : Statement .ldA_indHLDec := fun _ _ => rfl
theorem incA : Statement .incA := fun _ _ => rfl
theorem decA : Statement .decA := fun _ _ => rfl
theorem ldA_d8 : Statement .ldA_d8 := fun _ _ => rfl
theorem ldB_B : Statement .ldB_B := fun _ _ => rfl
theorem ldB_C : Statement .ldB_C := fun _ _ => rfl
theorem ldB_D : Statement .ldB_D := fun _ _ => rfl
theorem ldB_E : Statement .ldB_E := fun _ _ => rfl
theorem ldB_H : Statement .ldB_H := fun _ _ => rfl
theorem ldB_L : Statement .ldB_L := fun _ _ => rfl
theorem ldB_indHL : Statement .ldB_indHL := fun _ _ => rfl
theorem ldB_A : Statement .ldB_A := fun _ _ => rfl
theorem ldC_B : Statement .ldC_B := fun _ _ => rfl
theorem ldC_C : Statement .ldC_C := fun _ _ => rfl
theorem ldC_D : Statement .ldC_D := fun _ _ => rfl
theorem ldC_E : Statement .ldC_E := fun _ _ => rfl
theorem ldC_H : Statement .ldC_H := fun _ _ => rfl
theorem ldC_L : Statement .ldC_L := fun _ _ => rfl
theorem ldC_indHL : Statement .ldC_indHL := fun _ _ => rfl
theorem ldC_A : Statement .ldC_A := fun _ _ => rfl
theorem ldD_B : Statement .ldD_B := fun _ _ => rfl
theorem ldD_C : Statement .ldD_C := fun _ _ => rfl
theorem ldD_D : Statement .ldD_D := fun _ _ => rfl
theorem ldD_E : Statement .ldD_E := fun _ _ => rfl
theorem ldD_H : Statement .ldD_H := fun _ _ => rfl
theorem ldD_L : Statement .ldD_L := fun _ _ => rfl
theorem ldD_indHL : Statement .ldD_indHL := fun _ _ => rfl
theorem ldD_A : Statement .ldD_A := fun _ _ => rfl
theorem ldE_B : Statement .ldE_B := fun _ _ => rfl
theorem ldE_C : Statement .ldE_C := fun _ _ => rfl
theorem ldE_D : Statement .ldE_D := fun _ _ => rfl
theorem ldE_E : Statement .ldE_E := fun _ _ => rfl
theorem ldE_H : Statement .ldE_H := fun _ _ => rfl
theorem ldE_L : Statement .ldE_L := fun _ _ => rfl
theorem ldE_indHL : Statement .ldE_indHL := fun _ _ => rfl
theorem ldE_A : Statement .ldE_A := fun _ _ => rfl
theorem ldH_B : Statement .ldH_B := fun _ _ => rfl
theorem ldH_C : Statement .ldH_C := fun _ _ => rfl
theorem ldH_D : Statement .ldH_D := fun _ _ => rfl
theorem ldH_E : Statement .ldH_E := fun _ _ => rfl
theorem ldH_H : Statement .ldH_H := fun _ _ => rfl
theorem ldH_L : Statement .ldH_L := fun _ _ => rfl
theorem ldH_indHL : Statement .ldH_indHL := fun _ _ => rfl
theorem ldH_A : Statement .ldH_A := fun _ _ => rfl
theorem ldL_B : Statement .ldL_B := fun _ _ => rfl
theorem ldL_C : Statement .ldL_C := fun _ _ => rfl
theorem ldL_D : Statement .ldL_D := fun _ _ => rfl
theorem ldL_E : Statement .ldL_E := fun _ _ => rfl
theorem ldL_H : Statement .ldL_H := fun _ _ => rfl
theorem ldL_L : Statement .ldL_L := fun _ _ => rfl
theorem ldL_indHL : Statement .ldL_indHL := fun _ _ => rfl
theorem ldL_A : Statement .ldL_A := fun _ _ => rfl
theorem ldIndHL_B : Statement .ldIndHL_B := fun _ _ => rfl
theorem ldIndHL_C : Statement .ldIndHL_C := fun _ _ => rfl
theorem ldIndHL_D : Statement .ldIndHL_D := fun _ _ => rfl
theorem ldIndHL_E : Statement .ldIndHL_E := fun _ _ => rfl
theorem ldIndHL_H : Statement .ldIndHL_H := fun _ _ => rfl
theorem ldIndHL_L : Statement .ldIndHL_L := fun _ _ => rfl
theorem ldIndHL_A : Statement .ldIndHL_A := fun _ _ => rfl
theorem ldA_B : Statement .ldA_B := fun _ _ => rfl
theorem ldA_C : Statement .ldA_C := fun _ _ => rfl
theorem ldA_D : Statement .ldA_D := fun _ _ => rfl
theorem ldA_E : Statement .ldA_E := fun _ _ => rfl
theorem ldA_H : Statement .ldA_H := fun _ _ => rfl
theorem ldA_L : Statement .ldA_L := fun _ _ => rfl
theorem ldA_indHL : Statement .ldA_indHL := fun _ _ => rfl
theorem ldA_A : Statement .ldA_A := fun _ _ => rfl
theorem addA_B : Statement .addA_B := fun _ _ => rfl
theorem addA_C : Statement .addA_C := fun _ _ => rfl
theorem addA_D : Statement .addA_D := fun _ _ => rfl
theorem addA_E : Statement .addA_E := fun _ _ => rfl
theorem addA_H : Statement .addA_H := fun _ _ => rfl
theorem addA_L : Statement .addA_L := fun _ _ => rfl
theorem addA_indHL : Statement .addA_indHL := fun _ _ => rfl
theorem addA_A : Statement .addA_A := fun _ _ => rfl
theorem xorB : Statement .xorB := fun _ _ => rfl
theorem xorC : Statement .xorC := fun _ _ => rfl
theorem xorD : Statement .xorD := fun _ _ => rfl
theorem xorE : Statement .xorE := fun _ _ => rfl
theorem xorH : Statement .xorH := fun _ _ => rfl
theorem xorL : Statement .xorL := fun _ _ => rfl
theorem xorIndHL : Statement .xorIndHL := fun _ _ => rfl
theorem xorA : Statement .xorA := fun _ _ => rfl
theorem jpNZ_a16 : Statement .jpNZ_a16 := fun _ _ => rfl
theorem jp_a16 : Statement .jp_a16 := fun _ _ => rfl
theorem addA_d8 : Statement .addA_d8 := fun _ _ => rfl
theorem jpZ_a16 : Statement .jpZ_a16 := fun _ _ => rfl
theorem jpNC_a16 : Statement .jpNC_a16 := fun _ _ => rfl
theorem jpC_a16 : Statement .jpC_a16 := fun _ _ => rfl
theorem jpHL : Statement .jpHL := fun _ _ => rfl
theorem xorD8 : Statement .xorD8 := fun _ _ => rfl
theorem di : Statement .di := fun _ _ => rfl
theorem slaB : Statement .slaB := of_prefixed _ rfl
theorem slaC : Statement .slaC := of_prefixed _ rfl
theorem slaD : Statement .slaD := of_prefixed _ rfl
theorem slaE : Statement .slaE := of_prefixed _ rfl
theorem slaH : Statement .slaH := of_prefixed _ rfl
theorem slaL : Statement .slaL := of_prefixed _ rfl
theorem slaIndHL : Statement .slaIndHL := of_prefixed _ rfl
theorem slaA : Statement .slaA := of_prefixed _ rfl

end Sys2Proof.Laws.RoundTrip
end

