-- ==== Sys2Proof/Laws/Step.lean ====
section
/-! SUPPORT. Fetch, Decode and the step: what each can do, and that a meaning is the run of its row's form. -/

namespace Sys2Proof.Machine

/-- Every meaning runs the form of its row. -/
theorem exec_eq_runForm (i : Instr) (s : State) : exec i s = runForm i.form s := by
  cases i <;> rfl

/-- A meaning always answers a next state. -/
theorem exec_next (i : Instr) (s : State) : ∃ t, exec i s = .next t := by
  rw [exec_eq_runForm]
  exact finish_next _ _ _

/-- Everything Fetch and Decode can leave (40_step_operands.md R101 to R103). -/
theorem fetchDecode_cases (p : Profile) (s : State) :
    (∃ t, s.readByte s.pc = .error t ∧ fetchDecode p s = .halted (s.takeHalt .fetch s.pc none t)) ∨
    (∃ op t, s.readByte s.pc = .ok op ∧ p.readsSecond op = true ∧ s.readByte (s.pc + 1#16) = .error t ∧
      fetchDecode p s = .halted (s.takeHalt .decode s.pc (some op) t)) ∨
    (∃ op sub, s.readByte s.pc = .ok op ∧ (p.readsSecond op = true → s.readByte (s.pc + 1#16) = .ok sub) ∧
      fetchDecode p s = .decoded (decode p op sub)) := by
  unfold fetchDecode State.secondByte
  rcases s.readByte s.pc with t | op
  · exact .inl ⟨t, rfl, rfl⟩
  · cases h : p.readsSecond op
    · exact .inr (.inr ⟨op, 0#8, rfl, by simp [h], by simp [h]⟩)
    · rcases h2 : s.readByte (s.pc + 1#16) with t | sub
      · exact .inr (.inl ⟨op, t, rfl, h, rfl, by simp [h]⟩)
      · exact .inr (.inr ⟨op, sub, rfl, fun _ => rfl, by simp [h]⟩)

/-- Everything a step can do (R100, R107). -/
theorem stepWith_cases (p : Profile) (s : State) :
    (s.status = .halted ∧ stepWith p s = .next s) ∨
    (s.status = .running ∧ ∃ t, fetchDecode p s = .halted t ∧ stepWith p s = .next t) ∨
    (s.status = .running ∧ ∃ i, fetchDecode p s = .decoded (.row i) ∧ stepWith p s = exec i s) ∨
    (s.status = .running ∧ ∃ op sub, fetchDecode p s = .decoded (.undefined op sub) ∧
      stepWith p s = runUndefined op sub s) := by
  unfold stepWith
  rcases s.status
  · rcases fetchDecode p s with (i | ⟨op, sub⟩) | t
    · exact .inr (.inr (.inl ⟨rfl, i, rfl, rfl⟩))
    · exact .inr (.inr (.inr ⟨rfl, op, sub, rfl, rfl⟩))
    · exact .inr (.inl ⟨rfl, t, rfl, rfl⟩)
  · exact .inl ⟨rfl, rfl⟩

/-- An Undefined opcode only advances the pc and halts (44_misc.md R213). -/
theorem runUndefined_eq (op : Byte) (sub : Option Byte) (s : State) :
    runUndefined op sub s =
      .next ((s.advance (Decoded.undefined op sub).length).takeHalt .execute s.pc (some op)
        (unimplementedOpcode sub)) := by
  simp [runUndefined, runRecord, Decoded.record, execute]

/-- A step always answers a next state (00_scope.md R7). -/
theorem stepWith_next (p : Profile) (s : State) : ∃ t, stepWith p s = .next t := by
  rcases stepWith_cases p s with ⟨-, h⟩ | ⟨-, t, -, h⟩ | ⟨-, i, -, h⟩ | ⟨-, op, sub, -, h⟩
  · exact ⟨s, h⟩
  · exact ⟨t, h⟩
  · rw [h]; exact exec_next i s
  · rw [h, runUndefined_eq]; exact ⟨_, rfl⟩

/-- One step of a run, when the step answers a next state; `Host.Core.run` itself is the host's. -/
theorem run_succ_of_next (M : Host.Core) (k : Nat) (s t : M.State) (h : M.step s = .next t) :
    M.run (k + 1) s = M.run k t := by
  rw [Host.Core.run, h]

/-- The same of this machine. -/
theorem core_run_succ (k : Nat) (s t : State) (h : step s = .next t) : core.run (k + 1) s = core.run k t :=
  run_succ_of_next core k s t h

end Sys2Proof.Machine
end

