-- ==== Sys2Proof/Tests/Slice0.lean ====
section
/-! SUPPORT. The model's own tests: records that are not well formed, words written out from 30_encoding.md, one step of
every form of the table, and for each statement a witness of its hypotheses. The number in a test's docstring is the vector
of 95_test_vectors.md its expected values are taken from; they come from the spec's rules, not from the model. -/

namespace Sys2Proof.Tests

open Sys2Proof Sys2Proof.Machine

/-! ## Helpers -/

/-- The reset state with `bytes` at `addr` and after, and pc at `addr`. -/
def codeAt (addr : Addr) (bytes : List Byte) : State := (State.reset.setPc addr).placeBytes addr bytes

/-- The reset state with `bytes` at 0x0100, where pc is. -/
def code (bytes : List Byte) : State := codeAt 0x0100#16 bytes

/-- The same with one more byte stored at `addr`. -/
def poke (s : State) (addr : Addr) (v : Byte) : State := s.placeBytes addr [v]

/-- The byte at an address, if there is one. -/
def peek (s : State) (addr : Addr) : Option Byte :=
  match s.readByte addr with
  | .ok v => some v
  | .error _ => none

/-- Whether one step of the table `p` leads to a state that meets `f`. -/
def seesWith (p : Profile) (s : State) (f : State → Bool) : Bool :=
  match stepWith p s with
  | .next t => f t
  | .fault _ => false
  | .refused _ => false

/-- Whether one step leads to a state that meets `f`. -/
def sees (s : State) (f : State → Bool) : Bool := seesWith .extended s f

/-- Whether a state is halted with this record and pc. -/
def haltedAt (t : State) (pc : Addr) (r : HaltRec) : Bool := t.status == .halted && t.pc == pc && t.haltRec == r

/-- The halt record of a failed access in Execute. -/
def badAccess (pc0 : Addr) (op : Byte) (addr : Addr) : HaltRec :=
  { cause := .invalidAddress, phase := .execute, addr := pc0, opcode := some op, sub := none, faultAddr := some addr }

/-- The halt record of an Undefined opcode. -/
def badOpcode (op : Byte) (sub : Option Byte) : HaltRec :=
  { cause := .unimplementedOpcode, phase := .execute, addr := 0x0100#16, opcode := some op, sub := sub, faultAddr := none }

/-! ## WellFormed: for each check a record it refuses -/

/-- A write to a relative operand. -/
theorem test_wf_refuses_write_to_rel : (Record.load (.rel 0x0101#16) (.reg (.pair .hl))).wf = false := by decide
/-- A write to a flag. -/
theorem test_wf_refuses_write_to_flag : (Record.inc (.flag .always)).wf = false := by decide
/-- A write at a fixed address. -/
theorem test_wf_refuses_write_to_fixed_address : (Record.dec (.absByte 0x0101#16)).wf = false := by decide
/-- A jump on something that is no flag. -/
theorem test_wf_refuses_jump_on_register : (Record.jump (.reg (.r8 .a)) (.absWord 0x0101#16)).wf = false := by decide
/-- NotFlag(Always). -/
theorem test_wf_refuses_not_always : (Record.jump (.notFlag .always) (.absWord 0x0101#16)).wf = false := by decide
/-- A jump to a byte. -/
theorem test_wf_refuses_jump_to_byte : (Record.jump (.flag .z) (.absByte 0x0101#16)).wf = false := by decide
/-- An address held in an 8-bit register. -/
theorem test_wf_refuses_address_in_byte : (Record.load (.reg (.r8 .a)) (.indByte (.r8 .c))).wf = false := by decide
/-- Operands of two widths. -/
theorem test_wf_refuses_mixed_widths : (Record.add (.reg (.pair .hl)) (.reg (.r8 .a))).wf = false := by decide
/-- A flag as data. -/
theorem test_wf_refuses_flag_as_data : (Record.xor (.reg (.r8 .a)) (.flag .z)).wf = false := by decide
/-- A Stacked in a Stacked, a Jump in a Stacked, and a Stacked of one. -/
theorem test_wf_refuses_bad_stacked :
    (Record.stacked [.stacked [.nop, .nop], .nop]).wf = false ∧
    (Record.stacked [.jump (.flag .z) (.reg (.pair .hl)), .nop]).wf = false ∧
    (Record.stacked [.nop]).wf = false := by decide

/-! ## Decode: words written out from 30_encoding.md R71, R72, R78 and R79 -/

/-- The load family: `01 ddd sss`, `00 ddd 110`, `00 rr0 001`, and the rows of column 2 and A. -/
theorem test_decode_load :
    decodeStream .extended [0b01_000_001#8] = .ok (.ldB_C, 1) ∧
    decodeStream .extended [0b01_111_110#8] = .ok (.ldA_indHL, 1) ∧
    decodeStream .extended [0b01_110_101#8] = .ok (.ldIndHL_L, 1) ∧
    decodeStream .extended [0b00_001_110#8, 0x10#8] = .ok (.ldC_d8, 2) ∧
    decodeStream .extended [0b00_110_110#8, 0xAB#8] = .ok (.ldIndHL_d8, 2) ∧
    decodeStream .extended [0b00_100_001#8, 0xFF#8, 0xDF#8] = .ok (.ldHL_d16, 3) ∧
    decodeStream .extended [0x02#8] = .ok (.ldIndBC_A, 1) ∧
    decodeStream .extended [0x1A#8] = .ok (.ldA_indDE, 1) ∧
    decodeStream .extended [0x22#8] = .ok (.ldIndHLInc_A, 1) ∧
    decodeStream .extended [0x3A#8] = .ok (.ldA_indHLDec, 1) := by decide

/-- The arithmetic and logic family. -/
theorem test_decode_alu :
    decodeStream .extended [0b10000_000#8] = .ok (.addA_B, 1) ∧
    decodeStream .extended [0b10000_110#8] = .ok (.addA_indHL, 1) ∧
    decodeStream .extended [0xC6#8, 0xFF#8] = .ok (.addA_d8, 2) ∧
    decodeStream .extended [0b00_101_001#8] = .ok (.addHL_HL, 1) ∧
    decodeStream .extended [0b10101_111#8] = .ok (.xorA, 1) ∧
    decodeStream .extended [0xEE#8, 0x0F#8] = .ok (.xorD8, 2) ∧
    decodeStream .extended [0b00_111_100#8] = .ok (.incA, 1) ∧
    decodeStream .extended [0b00_110_101#8] = .ok (.decIndHL, 1) ∧
    decodeStream .extended [0b00_001_011#8] = .ok (.decBC, 1) ∧
    decodeStream .extended [0xCB#8, 0b00100_111#8] = .ok (.slaA, 2) ∧
    decodeStream .extended [0x2F#8] = .ok (.cpl, 1) := by decide

/-- Control transfer, NOP, DI. -/
theorem test_decode_control :
    decodeStream .extended [0xC3#8, 0x34#8, 0x12#8] = .ok (.jp_a16, 3) ∧
    decodeStream .extended [0b110_10_010#8, 0#8, 2#8] = .ok (.jpNC_a16, 3) ∧
    decodeStream .extended [0x18#8, 0xFB#8] = .ok (.jr_r8, 2) ∧
    decodeStream .extended [0b001_01_000#8, 2#8] = .ok (.jrZ_r8, 2) ∧
    decodeStream .extended [0xE9#8] = .ok (.jpHL, 1) ∧
    decodeStream .extended [0x00#8] = .ok (.nop, 1) ∧
    decodeStream .extended [0xF3#8] = .ok (.di, 1) := by decide

/-- What is no instruction. -/
theorem test_decode_rejects :
    decodeStream .extended [] = .error .noByte ∧
    decodeStream .extended [0xCB#8] = .error .noSecondByte ∧
    decodeStream .extended [0x76#8] = .error (.undefined 0x76#8 none) ∧
    decodeStream .extended [0xCB#8, 0x28#8] = .error (.undefined 0xCB#8 (some 0x28#8)) ∧
    decodeStream .minimal [0x3C#8] = .error (.undefined 0x3C#8 none) := by decide

/-- The words of spec/opcode_table.json: a CB form has its prefix in bits 15:8 (30_encoding.md R85). -/
theorem test_decode_table_word :
    decodeTableWord 8 0x41 = some .ldB_C ∧ decodeTableWord 16 0xCB27 = some .slaA ∧
    decodeTableWord 24 0x1234C3 = some .jp_a16 ∧ decodeTableWord 16 0xFC20 = some .jrNZ_r8 ∧
    decodeTableWord 8 0x76 = none ∧ decodeTableWord 16 0xCB00 = none := by decide

/-- The encoder, on a form of every format. -/
theorem test_encode :
    encode .ldB_C 0#16 = [0x41#8] ∧ encode .ldC_d8 0x10#16 = [0x0E#8, 0x10#8] ∧ encode .jr_r8 0xFB#16 = [0x18#8, 0xFB#8] ∧
    encode .jp_a16 0x1234#16 = [0xC3#8, 0x34#8, 0x12#8] ∧ encode .slaB 0#16 = [0xCB#8, 0x20#8] := by decide

/-! ## Reset, registers, memory -/

/-- S11. -/
theorem test_reset :
    (State.reset.pair .bc, State.reset.pair .de, State.reset.pair .hl) = (0x0013#16, 0x00D8#16, 0x014D#16) ∧
    State.reset.a = 0x01#8 ∧ State.reset.pc = 0x0100#16 ∧ peek State.reset 0xC001#16 = some 0x00#8 ∧
    peek (State.resetWith [0x11#8, 0x22#8]) 0x0001#16 = some 0x22#8 := by decide

/-- A host word runs as the first instruction after reset. -/
theorem test_withFetchWord :
    sees (State.reset.withFetchWord 16 0xCB27) (fun t => t.a == 0x02#8 && t.pc == 0x0102#16) = true := by decide

/-- G1 and S8. -/
theorem test_register_writes :
    (State.reset.writeReg (.r8 .b) 0x1234#16).readReg (.pair .bc) = 0x3413#16 ∧
    (State.reset.writeReg (.pair .bc) 0xABCD#16).b = 0xAB#8 ∧
    (State.reset.writeReg (.pair .bc) 0xABCD#16).c = 0xCD#8 := by decide

/-- S7: the mirror. -/
theorem test_mirror :
    peek (poke State.reset 0xC100#16 0x77#8) 0xE100#16 = some 0x77#8 ∧
    peek (poke State.reset 0xF000#16 0xAB#8) 0xD000#16 = some 0xAB#8 := by decide

/-- T13. -/
theorem test_xmem_word :
    (State.reset.xmem (.setWord 0xC010#16 0xBEEF#16)).1 = .written ∧
    ((State.reset.xmem (.setWord 0xC010#16 0xBEEF#16)).2.xmem (.getWord 0xE010#16)).1 = .word 0xBEEF#16 ∧
    peek (State.reset.xmem (.setWord 0xC010#16 0xBEEF#16)).2 0xE011#16 = some 0xBE#8 := by decide

/-- T14, T15, T16: a failing word write. -/
theorem test_xmem_word_no_rollback :
    State.reset.xmem (.setWord 0xDFFF#16 0x1234#16) = (.err .invalidAddress, State.reset) ∧
    (State.reset.xmem (.setWord 0xC000#16 0x1234#16)).1 = .err .invalidAddress ∧
    peek (State.reset.xmem (.setWord 0xC000#16 0x1234#16)).2 0xC001#16 = some 0x12#8 ∧
    peek (State.reset.xmem (.setWord 0x0000#16 0x1234#16)).2 0x0001#16 = some 0x12#8 := by decide

/-- A byte written back to what an unlisted offset reads as leaves no entry. -/
theorem test_canonical_form :
    (poke State.reset 0xC001#16 0x05#8).ram = [(1, 0x05#8)] ∧
    (poke (poke State.reset 0xC001#16 0x05#8) 0xC001#16 0x00#8).ram = [] := by decide

/-! ## One step of every form -/

/-- L1. -/
theorem test_ldRegReg : sees (((code [0x41]).setR8 .b 0x12).setR8 .c 0x34) (fun t => t.b == 0x34 && t.c == 0x34 && t.pc == 0x0101) = true := by decide
/-- L18: the address is formed before H is written. -/
theorem test_ldRegInd : sees (poke ((code [0x66]).setPair .hl 0xC005) 0xC005 0x11) (fun t => t.h == 0x11 && t.l == 0x05 && t.pc == 0x0101) = true := by decide
/-- L3. -/
theorem test_ldIndReg : sees (((code [0x77]).setPair .hl 0xC100).setR8 .a 0x77) (fun t => peek t 0xC100 == some 0x77 && peek t 0xE100 == some 0x77) = true := by decide
/-- L4. -/
theorem test_ldRegImm : sees (code [0x0E, 0x10]) (fun t => t.c == 0x10 && t.pc == 0x0102) = true := by decide
/-- L19: the operand byte is at 0x8000; pc has been advanced. -/
theorem test_ldRegImm_fault : sees (codeAt 0x7FFF [0x06]) (fun t => haltedAt t 0x8001 (badAccess 0x7FFF 0x06 0x8000) && t.b == 0x00) = true := by decide
/-- L5. -/
theorem test_ldIndImm : sees ((code [0x36, 0xAB]).setPair .hl 0xD000) (fun t => peek t 0xF000 == some 0xAB && t.pc == 0x0102) = true := by decide
/-- L6. -/
theorem test_ldPairImm : sees (code [0x21, 0xFF, 0xDF]) (fun t => t.h == 0xDF && t.l == 0xFF && t.pc == 0x0103) = true := by decide
/-- L7. -/
theorem test_ldIndBCA : sees ((code [0x02]).setPair .bc 0xC002) (fun t => peek t 0xC002 == some 0x01 && t.pc == 0x0101) = true := by decide
/-- L8: a write into the ROM window succeeds. -/
theorem test_ldIndDEA : sees (code [0x12]) (fun t => peek t 0x00D8 == some 0x01 && t.status == .running) = true := by decide
/-- L9. -/
theorem test_ldAIndBC : sees (poke ((code [0x0A]).setPair .bc 0x0104) 0x0104 0x99) (fun t => t.a == 0x99 && t.pc == 0x0101) = true := by decide
/-- L10. -/
theorem test_ldAIndDE_fault : sees ((code [0x1A]).setPair .de 0x0000) (fun t => haltedAt t 0x0101 (badAccess 0x0100 0x1A 0x0000) && t.a == 0x01) = true := by decide
/-- L12: HL becomes an unmapped address, no fault now. -/
theorem test_ldHLIncA : sees (((code [0x22]).setPair .hl 0xDFFF).setR8 .a 0x07) (fun t => peek t 0xDFFF == some 0x07 && t.pair .hl == 0xE000 && !t.z && t.status == .running) = true := by decide
/-- L13. -/
theorem test_ldAHLInc : sees (poke ((code [0x2A]).setPair .hl 0x0150) 0x0150 0xC3) (fun t => t.a == 0xC3 && t.pair .hl == 0x0151) = true := by decide
/-- L15: Z from the new HL. -/
theorem test_ldHLDecA : sees (((code [0x32]).setPair .hl 0x0001).setR8 .a 0xEE) (fun t => peek t 0x0001 == some 0xEE && t.pair .hl == 0x0000 && t.z) = true := by decide
/-- L16: the first member faults, the second does not run. -/
theorem test_ldHLDecA_fault : sees (((code [0x32]).setPair .hl 0x0000).setZ true) (fun t => haltedAt t 0x0101 (badAccess 0x0100 0x32 0x0000) && t.pair .hl == 0x0000 && t.z) = true := by decide
/-- L17. -/
theorem test_ldAHLDec : sees (poke (((code [0x3A]).setPair .hl 0xC005).setZ true) 0xC005 0x11) (fun t => t.a == 0x11 && t.pair .hl == 0xC004 && !t.z) = true := by decide
/-- A1: no flag. -/
theorem test_addReg : sees (((code [0x80]).setR8 .a 0xF0).setR8 .b 0x20) (fun t => t.a == 0x10 && t.b == 0x20 && !t.z && !t.cy) = true := by decide
/-- A3. -/
theorem test_addInd : sees (poke ((code [0x86]).setPair .hl 0xC001) 0xC001 0x02) (fun t => t.a == 0x03 && t.pc == 0x0101) = true := by decide
/-- A4: Z is not written. -/
theorem test_addImm : sees (code [0xC6, 0xFF]) (fun t => t.a == 0x00 && !t.z && t.pc == 0x0102) = true := by decide
/-- A5. -/
theorem test_addPair : sees (((code [0x09]).setPair .hl 0x8000).setPair .bc 0x8001) (fun t => t.pair .hl == 0x0001 && t.pair .bc == 0x8001 && !t.cy) = true := by decide
/-- A7. -/
theorem test_xorReg : sees (((code [0xA8]).setR8 .a 0x0F).setR8 .b 0xFF) (fun t => t.a == 0xF0 && t.b == 0xFF) = true := by decide
/-- S4: XOR writes no flag. -/
theorem test_xorA : sees (((code [0xAF]).setR8 .a 0x5A)) (fun t => t.a == 0x00 && !t.z) = true := by decide
/-- A8: the operand is the instruction's own opcode byte. -/
theorem test_xorInd : sees (((code [0xAE]).setR8 .a 0xFF).setPair .hl 0x0100) (fun t => t.a == 0x51) = true := by decide
/-- A9. -/
theorem test_xorImm : sees ((code [0xEE, 0xFF]).setR8 .a 0xAA) (fun t => t.a == 0x55 && t.pc == 0x0102) = true := by decide
/-- A11: no carry into H. -/
theorem test_incReg : sees ((code [0x2C]).setPair .hl 0x12FF) (fun t => t.pair .hl == 0x1200 && !t.z) = true := by decide
/-- A12. -/
theorem test_incInd : sees (poke ((code [0x34]).setPair .hl 0xC001) 0xC001 0x7F) (fun t => peek t 0xC001 == some 0x80) = true := by decide
/-- A30. -/
theorem test_incInd_fault : sees ((code [0x34]).setPair .hl 0xC000) (fun t => haltedAt t 0x0101 (badAccess 0x0100 0x34 0xC000)) = true := by decide
/-- A14. -/
theorem test_incPair : sees ((code [0x03]).setPair .bc 0xFFFF) (fun t => t.pair .bc == 0x0000 && !t.z) = true := by decide
/-- A16. -/
theorem test_decReg : sees (((code [0x05]).setR8 .b 0x00).setZ true) (fun t => t.b == 0xFF && !t.z) = true := by decide
/-- A29. -/
theorem test_decReg_zero : sees (code [0x3D]) (fun t => t.a == 0x00 && t.z) = true := by decide
/-- A18. -/
theorem test_decInd : sees (poke ((code [0x35]).setPair .hl 0xC001) 0xC001 0x01) (fun t => peek t 0xC001 == some 0x00 && t.z) = true := by decide
/-- A21: the test is on all 16 bits. -/
theorem test_decPair : sees (((code [0x0B]).setPair .bc 0x0100).setZ true) (fun t => t.pair .bc == 0x00FF && !t.z) = true := by decide
/-- A23. -/
theorem test_slaReg : sees ((code [0xCB, 0x27]).setR8 .a 0x81) (fun t => t.a == 0x02 && !t.cy && t.pc == 0x0102) = true := by decide
/-- A24. -/
theorem test_slaInd : sees (poke ((code [0xCB, 0x26]).setPair .hl 0xC001) 0xC001 0xC0) (fun t => peek t 0xC001 == some 0x80) = true := by decide
/-- A26. -/
theorem test_cpl : sees ((code [0x2F]).setR8 .a 0x35) (fun t => t.a == 0xCA && t.pc == 0x0101) = true := by decide
/-- S2. -/
theorem test_jpAbs : sees (code [0xC3, 0x34, 0x12]) (fun t => t.pc == 0x1234 && t.status == .running) = true := by decide
/-- C20: the high byte of the target cannot be read. -/
theorem test_jpAbs_fault : sees (codeAt 0x7FFE [0xC3, 0x34]) (fun t => haltedAt t 0x8001 (badAccess 0x7FFE 0xC3 0x8000)) = true := by decide
/-- C1 and C2. -/
theorem test_jpAbsCC : sees (codeAt 0x0150 [0xC2, 0x00, 0x02]) (fun t => t.pc == 0x0200) = true ∧
    sees ((codeAt 0x0150 [0xC2, 0x00, 0x02]).setZ true) (fun t => t.pc == 0x0153) = true := by decide
/-- C4 and C5. -/
theorem test_jpAbsCC_carry : sees (code [0xDA, 0x00, 0x02]) (fun t => t.pc == 0x0103) = true ∧
    sees (code [0xD2, 0x00, 0x02]) (fun t => t.pc == 0x0200) = true := by decide
/-- C11 and C12. -/
theorem test_jrRel : sees (code [0x18, 0x80]) (fun t => t.pc == 0x0082) = true ∧
    sees (codeAt 0x0003 [0x18, 0x80]) (fun t => t.pc == 0xFF85) = true := by decide
/-- C13 and C14. -/
theorem test_jrRelCC : sees (codeAt 0x0108 [0x20, 0xFC]) (fun t => t.pc == 0x0106) = true ∧
    sees ((codeAt 0x0108 [0x20, 0xFC]).setZ true) (fun t => t.pc == 0x010A) = true := by decide
/-- C18 and C19: not taken, the displacement is not read. -/
theorem test_jrRelCC_fault : sees ((codeAt 0x7FFF [0x20]).setZ true) (fun t => t.pc == 0x8001 && t.status == .running) = true ∧
    sees (codeAt 0x7FFF [0x20]) (fun t => haltedAt t 0x8001 (badAccess 0x7FFF 0x20 0x8000)) = true := by decide
/-- C6. -/
theorem test_jpHL : sees ((code [0xE9]).setPair .hl 0xC123) (fun t => t.pc == 0xC123) = true := by decide
/-- S1. -/
theorem test_nop : sees (code [0x00]) (fun t => t == { code [0x00] with pc := 0x0101 }) = true := by decide
/-- M1. -/
theorem test_di : sees (code [0xF3]) (fun t => t == { code [0xF3] with pc := 0x0101 }) = true := by decide

/-! ## Undefined opcodes and the step machine -/

/-- S5, M2 and A27. -/
theorem test_undefined :
    sees (code [0xFF]) (fun t => haltedAt t 0x0101 (badOpcode 0xFF none) && t.a == 0x01) = true ∧
    sees (code [0x76]) (fun t => haltedAt t 0x0101 (badOpcode 0x76 none)) = true ∧
    sees (code [0xCB, 0x00]) (fun t => haltedAt t 0x0102 (badOpcode 0xCB (some 0x00))) = true := by decide

/-- M9 and M10. -/
theorem test_minimal_undefined :
    seesWith .minimal (code [0x3C]) (fun t => haltedAt t 0x0101 (badOpcode 0x3C none)) = true ∧
    seesWith .minimal (code [0xCB, 0x27]) (fun t => haltedAt t 0x0101 (badOpcode 0xCB none)) = true := by decide

/-- M5 and M11: a failed fetch. -/
theorem test_fetch_fault :
    sees (State.reset.setPc 0xC000) (fun t => haltedAt t 0xC000
      { cause := .invalidAddress, phase := .fetch, addr := 0xC000, opcode := none, sub := none, faultAddr := some 0xC000 }) = true ∧
    sees { State.reset with romLen := 0x0100 } (fun t => haltedAt t 0x0100
      { cause := .romRange, phase := .fetch, addr := 0x0100, opcode := none, sub := none, faultAddr := some 0x0100 }) = true := by
  decide

/-- A28: the Decoder's read fails, pc is not advanced. -/
theorem test_decode_fault :
    sees (codeAt 0x7FFF [0xCB]) (fun t => haltedAt t 0x7FFF
      { cause := .invalidAddress, phase := .decode, addr := 0x7FFF, opcode := some 0xCB, sub := none, faultAddr := some 0x8000 }) = true := by
  decide

/-- M6: code runs from RAM. -/
theorem test_fetch_from_ram : sees (State.reset.setPc 0xC001) (fun t => t.pc == 0xC002 && t.status == .running) = true := by decide

/-- M8: a halted core does nothing. -/
theorem test_halted_is_absorbing :
    (let s := (code [0x00]).takeHalt .execute 0x0100#16 (some 0xFF#8) (unimplementedOpcode none)
     sees s (fun t => t == s)) = true := by decide

/-! ## Witnesses: for every statement with hypotheses, concrete states and operands that meet them -/

/-- The reset state with every pair at 0x0000, which is not mapped. -/
def unmapped : State := ((State.reset.setPair .hl 0x0000#16).setPair .bc 0x0000#16).setPair .de 0x0000#16

/-- The reset state with a ROM of 0x0100 bytes. -/
def shortRom : State := { State.reset with romLen := 0x0100 }

/-- The reset state with pc at the last ROM address. -/
def lastByte : State := State.reset.setPc 0x7FFF#16

/-- The reset state with pc one before the last ROM address. -/
def lastWord : State := State.reset.setPc 0x7FFE#16

/-- Whether a read completes. -/
def reads (s : State) (addr : Addr) : Bool := (peek s addr).isSome

/-- A read or write that fails, with the address. -/
def bad (addr : Addr) : Trap := { cause := .invalidAddress, faultAddr := some addr, sub := none }

theorem test_witness_ResetLeavesTheStatedValues : 1 < [0x11#8, 0x22#8].length ∧
    (State.resetWith [0x11#8, 0x22#8]).buffer (.rom, 1) = 0x22#8 ∧ 0x1FFF < 0x2000 := by decide

/-- Every clause at both ends of its range, and the ends lie in no other clause. -/
theorem test_witness_TranslateFollowsTheAddressMap :
    translateAddr 0x0000#16 = none ∧ translateAddr 0x0001#16 = some (.rom, 1) ∧
    translateAddr 0x7FFF#16 = some (.rom, 0x7FFF) ∧ translateAddr 0x8000#16 = none ∧ translateAddr 0xC000#16 = none ∧
    translateAddr 0xC001#16 = some (.ram, 1) ∧ translateAddr 0xDFFF#16 = some (.ram, 0x1FFF) ∧
    translateAddr 0xE000#16 = none ∧ translateAddr 0xE001#16 = some (.ram, 1) ∧
    translateAddr 0xFDFF#16 = some (.ram, 0x1DFF) ∧ translateAddr 0xFE00#16 = none ∧
    translateAddr 0xFFFF#16 = none := by decide

theorem test_witness_RamWindowsAliasOneBuffer :
    (0xC000 < (0xC001#16).toNat ∧ 0xE000 < (0xE001#16).toNat ∧ (0xC001#16).toNat - 0xC000 = (0xE001#16).toNat - 0xE000) ∧
    ((0xDDFF#16).toNat < 0xE000 ∧ (0xFDFF#16).toNat < 0xFE00 ∧ (0xDDFF#16).toNat - 0xC000 = (0xFDFF#16).toNat - 0xE000) ∧
    (0xDE00 ≤ (0xDE00#16).toNat ∧ translateAddr 0xDE00#16 = some (.ram, 0x1E00)) ∧
    ((0xDFFF#16).toNat ≤ 0xDFFF ∧ translateAddr 0xDFFF#16 = some (.ram, 0x1FFF)) := by decide

theorem test_witness_ByteAccessIsTranslateThenAccess :
    State.reset.readByte 0x8000#16 = .error (bad 0x8000#16) ∧
    shortRom.readByte 0x0100#16 = .error { cause := .romRange, faultAddr := some 0x0100#16, sub := none } ∧
    shortRom.readByte 0x7FFF#16 = .error { cause := .romRange, faultAddr := some 0x7FFF#16, sub := none } ∧
    shortRom.readByte 0x00FF#16 = .ok 0x00#8 ∧ State.reset.readByte 0x7FFF#16 = .ok 0x00#8 ∧
    shortRom.readByte 0xDFFF#16 = .ok 0x00#8 ∧ 0x8000 ≤ State.reset.romLen := by decide

theorem test_witness_WrittenByteIsReadAndFetched :
    State.reset.writeByte 0xC001#16 0x3C#8 = .ok (poke State.reset 0xC001#16 0x3C#8) ∧
    translateAddr 0xE001#16 = translateAddr 0xC001#16 ∧ translateAddr 0xC002#16 ≠ translateAddr 0xC001#16 ∧
    Profile.extended.readsSecond 0x3C#8 = false ∧ Profile.minimal.readsSecond 0xCB#8 = false := by decide

theorem test_witness_WordReadIsLittleEndian :
    reads State.reset 0x0101#16 = true ∧ reads State.reset 0x0102#16 = true ∧
    State.reset.readByte 0xFFFF#16 = .error (bad 0xFFFF#16) ∧
    (reads State.reset 0x7FFF#16 = true ∧ State.reset.readByte 0x8000#16 = .error (bad 0x8000#16)) ∧
    (reads State.reset 0xDFFF#16 = true ∧ State.reset.readByte 0xE000#16 = .error (bad 0xE000#16)) ∧
    (reads State.reset 0xFDFF#16 = true ∧ State.reset.readByte 0xFE00#16 = .error (bad 0xFE00#16)) ∧
    0x8000 ≤ State.reset.romLen := by decide

theorem test_witness_WordWriteHighByteFirstNoRollback :
    (reads State.reset 0xC001#16 = true ∧ reads State.reset 0xC002#16 = true) ∧
    State.reset.readByte (0xDFFF#16 + 1#16) = .error (bad 0xE000#16) ∧
    (reads State.reset (0xC000#16 + 1#16) = true ∧ State.reset.readByte 0xC000#16 = .error (bad 0xC000#16)) ∧
    State.reset.writeWord 0xC001#16 0x0005#16 = .done (poke State.reset 0xC001#16 0x05#8) ∧
    State.reset.writeWord 0xC000#16 0x0500#16 = .raised (bad 0xC000#16) (poke State.reset 0xC001#16 0x05#8) := by decide

theorem test_witness_XmemServesThePrimitivesAndNeverHalts :
    reads State.reset 0xC001#16 = true ∧ State.reset.readByte 0xC000#16 = .error (bad 0xC000#16) ∧
    State.reset.readWord 0xC001#16 = .ok 0x0000#16 ∧ State.reset.readWord 0xDFFF#16 = .error (bad 0xE000#16) ∧
    State.reset.writeByte 0xC001#16 0x05#8 = .ok (poke State.reset 0xC001#16 0x05#8) ∧
    State.reset.writeWord 0xC001#16 0x0005#16 = .done (poke State.reset 0xC001#16 0x05#8) ∧
    State.reset.writeWord 0xC000#16 0x0500#16 = .raised (bad 0xC000#16) (poke State.reset 0xC001#16 0x05#8) := by decide

theorem test_witness_RegisterFileReadsAndWrites : Reg8.c ≠ Reg8.b ∧ Reg8.a ≠ highReg .bc ∧ Reg8.a ≠ lowReg .bc := by decide

/-- A value read, and a value written, through an operand of every width. -/
theorem test_witness_OperandSetThenGetKeepsItsWidth :
    getOperand (.flag .always) State.reset = .ok 1#16 ∧ getOperand (.absByte 0x0101#16) State.reset = .ok 0#16 ∧
    getOperand (.rel 0x0101#16) State.reset = .ok 0x0100#16 ∧
    setOperand (.flag .z) 0xFFFF#16 State.reset = .done (State.reset.setZ true) ∧
    setOperand (.reg (.r8 .b)) 0x1234#16 State.reset = .done (State.reset.setR8 .b 0x34#8) ∧
    setOperand (.absWord 0xC001#16) 0x0005#16 State.reset = .done (poke State.reset 0xC001#16 0x05#8) := by decide

theorem test_witness_IndirectRelativeAndFlagOperands :
    (poke State.reset 0x0101#16 0x80#8).readByte 0x0101#16 = .ok 0x80#8 ∧
    State.reset.readByte 0x8000#16 = .error (bad 0x8000#16) := by decide

theorem test_witness_OperandKinds :
    getOperand (.reg (.r8 .a)) State.reset = .ok 1#16 ∧ getOperand (.indByte (.pair .hl)) State.reset = .ok 0#16 ∧
    getOperand (.indByte (.pair .hl)) unmapped = .error (bad 0x0000#16) ∧
    setOperand (.reg (.r8 .a)) (1#16 - 1#16) State.reset = .done (State.reset.setR8 .a 0x00#8) ∧
    getOperand (.rel 0x0101#16) State.reset = .ok 0x0100#16 ∧
    setOperand (.rel 0x0101#16) (0x0100#16 - 1#16) State.reset = .raised invalidOperandWrite State.reset ∧
    setOperand (.absWord 0xC000#16) 0x0500#16 State.reset =
      .raised (bad 0xC000#16) (poke State.reset 0xC001#16 0x05#8) := by decide

theorem test_witness_JumpKind :
    getOperand (.flag .z) State.reset = .ok 0#16 ∧ getOperand (.flag .always) State.reset = .ok 1#16 ∧
    getOperand (.absWord 0x0101#16) State.reset = .ok 0#16 ∧
    getOperand (.absWord 0x7FFF#16) State.reset = .error (bad 0x8000#16) := by decide

theorem test_witness_StackedMembersRunInOrder :
    execute (.stacked [.inc (.reg (.r8 .a))]) State.reset = .done (State.reset.setR8 .a 0x02#8) ∧
    execute (.load (.reg (.r8 .b)) (.absByte 0x8000#16)) (State.reset.setR8 .a 0x02#8) =
      .raised (bad 0x8000#16) (State.reset.setR8 .a 0x02#8) := by decide

/-- What the loads and the rows through a pair ask: an access that completes, and one that fails, of every pair. -/
theorem test_pairs_reach_and_miss :
    (∀ p ∈ [Pair.bc, .de, .hl], reads State.reset (State.reset.pair p) = true) ∧
    (∀ p ∈ [Pair.bc, .de, .hl], unmapped.readByte (unmapped.pair p) = .error (bad 0x0000#16)) := by decide

/-- What the rows with an operand in memory ask: both bytes read, the first failing, the second failing. -/
theorem test_operands_reach_and_miss :
    (reads State.reset (State.reset.pc + 1#16) = true ∧ reads State.reset (State.reset.pc + 2#16) = true) ∧
    lastByte.readByte (lastByte.pc + 1#16) = .error (bad 0x8000#16) ∧
    (reads lastWord (lastWord.pc + 1#16) = true ∧ lastWord.readByte (lastWord.pc + 2#16) = .error (bad 0x8000#16)) := by decide

theorem test_witness_LoadRegisterFromRegister :
    Instr.ldB_C.form = .ldRegReg .b .c ∧ Instr.ldA_A.form = .ldRegReg .a .a ∧ Instr.ldL_H.form = .ldRegReg .l .h := by decide

theorem test_witness_LoadRegisterFromHL : Instr.ldH_indHL.form = .ldRegInd .h ∧
    State.reset.readByte (State.reset.pair .hl) = .ok 0x00#8 ∧
    unmapped.readByte (unmapped.pair .hl) = .error (bad 0x0000#16) := by decide

theorem test_witness_StoreRegisterToHL : Instr.ldIndHL_L.form = .ldIndReg .l ∧
    State.reset.writeByte (State.reset.pair .hl) State.reset.l = .ok (poke State.reset 0x014D#16 0x4D#8) ∧
    unmapped.writeByte (unmapped.pair .hl) unmapped.l = .error (bad 0x0000#16) := by decide

theorem test_witness_LoadRegisterImmediate : Instr.ldC_d8.form = .ldRegImm .c ∧
    reads State.reset (State.reset.pc + 1#16) = true ∧
    lastByte.readByte (lastByte.pc + 1#16) = .error (bad 0x8000#16) := by decide

theorem test_witness_StoreImmediateToHL : Instr.ldIndHL_d8.form = .ldIndImm ∧
    (code [0x36#8, 0xAB#8]).readByte 0x0101#16 = .ok 0xAB#8 ∧
    (code [0x36#8, 0xAB#8]).writeByte 0x014D#16 0xAB#8 = .ok (poke (code [0x36#8, 0xAB#8]) 0x014D#16 0xAB#8) ∧
    lastByte.readByte (lastByte.pc + 1#16) = .error (bad 0x8000#16) ∧
    (reads unmapped 0x0101#16 = true ∧ unmapped.writeByte (unmapped.pair .hl) 0x00#8 = .error (bad 0x0000#16)) := by decide

theorem test_witness_LoadPairImmediate : Instr.ldHL_d16.form = .ldPairImm .hl ∧
    (reads State.reset (State.reset.pc + 1#16) = true ∧ reads State.reset (State.reset.pc + 2#16) = true) ∧
    lastByte.readByte (lastByte.pc + 1#16) = .error (bad 0x8000#16) ∧
    (reads lastWord (lastWord.pc + 1#16) = true ∧ lastWord.readByte (lastWord.pc + 2#16) = .error (bad 0x8000#16)) := by decide

theorem test_witness_AccumulatorThroughBCAndDE :
    (Instr.ldIndBC_A.form = .ldIndBCA ∧ Instr.ldIndDE_A.form = .ldIndDEA) ∧
    (Instr.ldA_indBC.form = .ldAIndBC ∧ Instr.ldA_indDE.form = .ldAIndDE) ∧
    State.reset.writeByte (State.reset.pair .bc) State.reset.a = .ok (poke State.reset 0x0013#16 0x01#8) ∧
    unmapped.writeByte (unmapped.pair .de) unmapped.a = .error (bad 0x0000#16) ∧
    reads State.reset (State.reset.pair .de) = true ∧
    unmapped.readByte (unmapped.pair .bc) = .error (bad 0x0000#16) := by decide

theorem test_witness_PostIncrementLoads :
    (Instr.ldIndHLInc_A.form = .ldHLIncA ∧ Instr.ldA_indHLInc.form = .ldAHLInc) ∧
    State.reset.writeByte (State.reset.pair .hl) State.reset.a = .ok (poke State.reset 0x014D#16 0x01#8) ∧
    unmapped.writeByte (unmapped.pair .hl) unmapped.a = .error (bad 0x0000#16) ∧
    reads State.reset (State.reset.pair .hl) = true ∧
    unmapped.readByte (unmapped.pair .hl) = .error (bad 0x0000#16) := by decide

theorem test_witness_PostDecrementLoads :
    (Instr.ldIndHLDec_A.form = .ldHLDecA ∧ Instr.ldA_indHLDec.form = .ldAHLDec) ∧
    State.reset.writeByte (State.reset.pair .hl) State.reset.a = .ok (poke State.reset 0x014D#16 0x01#8) ∧
    unmapped.writeByte (unmapped.pair .hl) unmapped.a = .error (bad 0x0000#16) ∧
    reads State.reset (State.reset.pair .hl) = true ∧
    unmapped.readByte (unmapped.pair .hl) = .error (bad 0x0000#16) := by decide

theorem test_witness_AddAndXorRegister :
    Instr.addA_B.form = .addReg .b ∧ Instr.xorB.form = .xorReg .b ∧ Instr.xorA.form = .xorReg .a := by decide

theorem test_witness_AddAndXorFromHL : (Instr.addA_indHL.form = .addInd ∧ Instr.xorIndHL.form = .xorInd) ∧
    reads State.reset (State.reset.pair .hl) = true ∧
    unmapped.readByte (unmapped.pair .hl) = .error (bad 0x0000#16) := by decide

theorem test_witness_AddAndXorImmediate : (Instr.addA_d8.form = .addImm ∧ Instr.xorD8.form = .xorImm) ∧
    reads State.reset (State.reset.pc + 1#16) = true ∧
    lastByte.readByte (lastByte.pc + 1#16) = .error (bad 0x8000#16) := by decide

theorem test_witness_AddPairToHL : Instr.addHL_DE.form = .addPair .de := by decide

theorem test_witness_IncrementRegisterAndPair :
    Instr.incL.form = .incReg .l ∧ Instr.incHL.form = .incPair .hl := by decide

theorem test_witness_IncrementAndDecrementAtHL :
    (Instr.incIndHL.form = .incInd ∧ Instr.decIndHL.form = .decInd) ∧
    reads State.reset (State.reset.pair .hl) = true ∧
    unmapped.readByte (unmapped.pair .hl) = .error (bad 0x0000#16) := by decide

theorem test_witness_DecrementRegisterAndPair :
    Instr.decA.form = .decReg .a ∧ Instr.decBC.form = .decPair .bc := by decide

theorem test_witness_ShiftLeft :
    (Instr.slaA.form = .slaReg .a ∧ Instr.slaIndHL.form = .slaInd) ∧
    reads State.reset (State.reset.pair .hl) = true ∧
    unmapped.readByte (unmapped.pair .hl) = .error (bad 0x0000#16) ∧
    ((codeAt 0x7FFF#16 [0xCB#8]).status = .running ∧ (codeAt 0x7FFF#16 [0xCB#8]).readByte 0x7FFF#16 = .ok 0xCB#8 ∧
      (codeAt 0x7FFF#16 [0xCB#8]).readByte (0x7FFF#16 + 1#16) = .error (bad 0x8000#16)) := by decide

theorem test_witness_ComplementAccumulator : Instr.cpl.form = .cpl ∧
    sees (code [0x2F#8, 0x2F#8]) (fun t => sees t (fun u => u.a == 0x01#8)) = true := by decide

theorem test_witness_JumpAbsoluteAndToHL : (Instr.jp_a16.form = .jpAbs ∧ Instr.jpHL.form = .jpHL) ∧
    (reads State.reset (State.reset.pc + 1#16) = true ∧ reads State.reset (State.reset.pc + 2#16) = true) ∧
    lastByte.readByte (lastByte.pc + 1#16) = .error (bad 0x8000#16) ∧
    (reads lastWord (lastWord.pc + 1#16) = true ∧ lastWord.readByte (lastWord.pc + 2#16) = .error (bad 0x8000#16)) := by decide

theorem test_witness_ConditionalJumps :
    (Instr.jpNZ_a16.form = .jpAbsCC .nz ∧ Instr.jpZ_a16.form = .jpAbsCC .z ∧
      Instr.jpNC_a16.form = .jpAbsCC .nc ∧ Instr.jpC_a16.form = .jpAbsCC .c) ∧
    (Instr.jrNZ_r8.form = .jrRelCC .nz ∧ Instr.jrZ_r8.form = .jrRelCC .z ∧
      Instr.jrNC_r8.form = .jrRelCC .nc ∧ Instr.jrC_r8.form = .jrRelCC .c) ∧
    ((!State.reset.z) = true ∧ State.reset.z = false ∧ (State.reset.setZ true).z = true ∧
      (!(State.reset.setZ true).z) = false) ∧
    ((!State.reset.cy) = true ∧ State.reset.cy = false ∧ (State.reset.setCy true).cy = true ∧
      (!(State.reset.setCy true).cy) = false) ∧
    (reads State.reset (State.reset.pc + 1#16) = true ∧ reads State.reset (State.reset.pc + 2#16) = true) ∧
    ((!lastByte.z) = true ∧ lastByte.readByte (lastByte.pc + 1#16) = .error (bad 0x8000#16)) ∧
    (reads lastWord (lastWord.pc + 1#16) = true ∧ lastWord.readByte (lastWord.pc + 2#16) = .error (bad 0x8000#16)) := by decide

theorem test_witness_JumpRelative : Instr.jr_r8.form = .jrRel ∧
    reads State.reset (State.reset.pc + 1#16) = true ∧
    lastByte.readByte (lastByte.pc + 1#16) = .error (bad 0x8000#16) := by decide

theorem test_witness_NopAndDiOnlyAdvance : Instr.nop.form = .nop ∧ Instr.di.form = .di := by decide

theorem test_witness_UndefinedOpcodeHalts :
    ((code [0xFF#8]).status = .running ∧ (0xFF#8).toNat ∈ undefinedBytes ∧ (code [0xFF#8]).readByte 0x0100#16 = .ok 0xFF#8) ∧
    ((code [0xCB#8, 0x1F#8]).readByte 0x0100#16 = .ok 0xCB#8 ∧ (code [0xCB#8, 0x1F#8]).readByte (0x0100#16 + 1#16) = .ok 0x1F#8 ∧
      (0x1F#8).toNat < 0x20) ∧
    ((code [0xCB#8, 0x28#8]).readByte (0x0100#16 + 1#16) = .ok 0x28#8 ∧ 0x27 < (0x28#8).toNat) ∧
    ((0x3C#8) ≠ 0x00#8 ∧ (0x3C#8) ≠ 0xAF#8 ∧ (0x3C#8) ≠ 0xC3#8 ∧ (code [0x3C#8]).readByte 0x0100#16 = .ok 0x3C#8) := by decide

theorem test_witness_EncodeOfDecode :
    decodeStream .extended [0xC3#8, 0x34#8, 0x12#8, 0x99#8] = .ok (.jp_a16, 3) ∧ 3 ≤ 4 ∧
    encode .jp_a16 0x1234#16 = [0xC3#8, 0x34#8, 0x12#8] ∧ encode .nop 0x0000#16 = encode .nop 0x1234#16 := by decide

theorem test_witness_MinimalProfileHasThreeRows :
    decode .minimal 0x00#8 0#8 = .row .nop ∧ decode .minimal 0xAF#8 0#8 = .row .xorA ∧ decode .minimal 0xC3#8 0#8 = .row .jp_a16 ∧
    (0xCB#8 ≠ 0x00#8 ∧ 0xCB#8 ≠ 0xAF#8 ∧ 0xCB#8 ≠ 0xC3#8) := by decide

theorem test_witness_StepRunsTheDecodedRow :
    (code [0xCB#8, 0x27#8]).status = .running ∧ (code [0xCB#8, 0x27#8]).readByte (code [0xCB#8, 0x27#8]).pc = .ok 0xCB#8 ∧
    Profile.extended.readsSecond 0xCB#8 = true ∧ (code [0xCB#8, 0x27#8]).readByte ((code [0xCB#8, 0x27#8]).pc + 1#16) = .ok 0x27#8 ∧
    decode .extended 0xCB#8 0x27#8 = .row .slaA := by decide

theorem test_witness_EncodedInstructionRunsWithItsOperand :
    (code (encode .jp_a16 0x1234#16)).status = .running ∧
    (∀ k : Fin 3, peek (code (encode .jp_a16 0x1234#16)) (0x0100#16 + BitVec.ofNat 16 k) = (encode .jp_a16 0x1234#16)[k.val]?) ∧
    Instr.jp_a16.form.format = .f3 ∧ Instr.ldC_d8.form.format = .f2i ∧ Instr.jr_r8.form.format = .f2r := by decide

theorem test_witness_FetchAndDecodeFaultsHalt :
    (State.reset.setPc 0xC000#16).status = .running ∧ (State.reset.setPc 0xC000#16).readByte 0xC000#16 = .error (bad 0xC000#16) ∧
    (codeAt 0x7FFF#16 [0xCB#8]).readByte 0x7FFF#16 = .ok 0xCB#8 ∧
    (codeAt 0x7FFF#16 [0xCB#8]).readByte (0x7FFF#16 + 1#16) = .error (bad 0x8000#16) := by decide

theorem test_witness_StepOutcomes :
    (State.reset.takeHalt .execute 0x0100#16 (some 0xFF#8) (unimplementedOpcode none)).status = .halted := by decide

/-- A step that halts, in each phase. -/
theorem test_witness_HaltingStepChangesOnlyPc :
    sees (State.reset.setPc 0xC000#16) (fun t => t.status == .halted && t.haltRec.phase == .fetch) = true ∧
    sees (codeAt 0x7FFF#16 [0xCB#8]) (fun t => t.status == .halted && t.haltRec.phase == .decode) = true ∧
    sees (code [0xFF#8]) (fun t => t.status == .halted && t.haltRec.phase == .execute) = true := by decide

theorem test_witness_ExecuteHaltsWhereTheTableSays :
    (unmapped.status = .running ∧ exec .incIndHL unmapped =
      .next ((unmapped.advance 1).takeHalt .execute 0x0100#16 (some 0x34#8) (bad 0x0000#16))) ∧
    (Instr.incIndHL.form.accessAddrs State.reset).all (reads State.reset) = true ∧
    (Instr.ldIndHL_d8.form.accessAddrs unmapped = [0x0101#16] ++ 0x0000#16 :: [] ∧ reads unmapped 0x0101#16 = true) :=
  ⟨⟨rfl, rfl⟩, by decide⟩

theorem test_witness_OnlyDecrementWritesAFlag :
    exec .incB State.reset = .next ((State.reset.advance 1).setR8 .b 0x01#8) ∧ Instr.incB.form.writesZ = false ∧
    sees (code [0x3D#8]) (fun t => t.z != (code [0x3D#8]).z) = true := ⟨rfl, rfl, by decide⟩

theorem test_witness_OnlyJumpsWritePc :
    exec .nop State.reset = .next (State.reset.advance 1) ∧ Instr.nop.form.isJump = false ∧
    reads (State.reset.setPc 0xFDFF#16) 0xFDFF#16 = true := ⟨rfl, rfl, by decide⟩

/-- A state that meets the invariant, Running or Halted, and a step from it. -/
theorem test_witness_StepKeepsTheInvariant :
    Invariant State.reset ∧ stepWith .extended State.reset = .next (State.reset.setPc 0x0101#16) := by
  refine ⟨⟨rfl, rfl, rfl, rfl, fun _ => rfl, fun h => ?_⟩, rfl⟩
  exact absurd h (by decide)

theorem test_witness_RequestsKeepTheInvariant :
    Invariant State.reset ∧
    State.reset.serveAll [.xmem (.setByte 0xC001#16 0x05#8), .step] =
      .next ([.written], (poke State.reset 0xC001#16 0x05#8).setPc 0x0101#16) :=
  ⟨test_witness_StepKeepsTheInvariant.1, rfl⟩

/-- A well-formed record that raises: the failed access of a load. -/
theorem test_witness_RowsNeverBreakTheOperandContract :
    (Record.load (.reg (.r8 .a)) (.indByte (.pair .hl))).wf = true ∧
    execute (.load (.reg (.r8 .a)) (.indByte (.pair .hl))) unmapped = .raised (bad 0x0000#16) unmapped := by decide

theorem test_witness_FrameOfRowsThatStoreNothing :
    Instr.incB.form.storeAddr State.reset = none ∧ Instr.incB.form.isJump = false ∧ Reg8.a ∉ Instr.incB.form.destRegs ∧
    Instr.incB.form.writesZ = false ∧ exec .incB State.reset = .next ((State.reset.advance 1).setR8 .b 0x01#8) ∧
    (Instr.ldA_indHL.form.accessAddrs State.reset).all (reads State.reset) = true :=
  ⟨rfl, rfl, by decide, rfl, rfl, by decide⟩

theorem test_witness_FrameOfRowsThatStore :
    Instr.ldIndHL_L.form.storeAddr State.reset = some 0x014D#16 ∧ Reg8.a ∉ Instr.ldIndHL_L.form.destRegs ∧
    Instr.ldIndHL_L.form.writesZ = false ∧ translateAddr 0x014E#16 ≠ translateAddr 0x014D#16 ∧
    exec .ldIndHL_L State.reset = .next ((poke State.reset 0x014D#16 0x4D#8).advance 1) ∧
    (Instr.ldIndHL_L.form.accessAddrs State.reset).all (reads State.reset) = true :=
  ⟨rfl, by decide, rfl, by decide, rfl, by decide⟩

theorem test_witness_FrameOfJumps :
    Instr.jpHL.form.isJump = true ∧ exec .jpHL State.reset = .next (State.reset.setPc 0x014D#16) ∧
    (Instr.jp_a16.form.accessAddrs State.reset).all (reads State.reset) = true := ⟨rfl, rfl, by decide⟩

end Sys2Proof.Tests
end

/-! Proofs of the family 00_scope.md: a step answers a next state and Halted is absorbing (R7, R100), and every
request served at the ports keeps the invariant (R8; 20_memory.md R56). -/

/-! ## The records of the rows (30_encoding.md R74, R75) -/

namespace Sys2Proof

/-- The record of every row is well formed. -/
theorem Form.record_wf (f : Form) (pc0 : Addr) : (f.record pc0).wf = true := by
  cases f with
  | jpAbsCC cc => cases cc <;> rfl
  | jrRelCC cc => cases cc <;> rfl
  | _ => rfl

theorem Form.record_ne_undefined (f : Form) (pc0 : Addr) (op : Byte) (addr : Addr) (sub : Option Byte) :
    f.record pc0 ≠ .undefined op addr sub := by
  cases f <;> exact nofun

end Sys2Proof

namespace Sys2Proof.Machine

/-! ## A Halted core (R100, R231) -/

/-- A step of a Halted core changes nothing. -/
theorem stepWith_of_halted {s : State} (h : s.status = .halted) (p : Profile) : stepWith p s = .next s := by
  simp [stepWith, h]

/-- No number of steps changes a Halted core. -/
theorem core_run_of_halted {s : State} (h : s.status = .halted) (k : Nat) : core.run k s = .next s := by
  induction k with
  | zero => rfl
  | succ k ih => rw [core_run_succ k s s (stepWith_of_halted h _), ih]

theorem Status.running_or_halted (st : Status) : st = .running ∨ st = .halted := by
  cases st
  · exact .inl rfl
  · exact .inr rfl

/-- Settles O49: Halted is absorbing by induction on the number of steps, and every step answers a next state. -/
theorem stepOutcomes : Obligations.StepOutcomes := by
  refine ⟨fun s h => ⟨stepWith_of_halted h, core_run_of_halted h⟩, fun p s => ?_⟩
  obtain ⟨t, ht⟩ := stepWith_next p s
  exact ⟨t, ht, t.status.running_or_halted⟩

/-! ## The trap of a failed memory access (60_exceptions.md R222, R226) -/

/-- The trap is what a failed access to `addr` raises. -/
def Trap.isAccessAt (e : Trap) (addr : Addr) : Prop := e = invalidAddress addr ∨ e = romRange addr

/-- The trap is what some failed access raises. -/
def Trap.isAccess (e : Trap) : Prop := ∃ addr, e.isAccessAt addr

theorem State.readByte_error_isAccessAt {s : State} {addr : Addr} {e : Trap} (h : s.readByte addr = .error e) :
    e.isAccessAt addr :=
  State.locate_error (State.readByte_error.mp h)

theorem State.writeByte_error_isAccessAt {s : State} {addr : Addr} {v : Byte} {e : Trap}
    (h : s.writeByte addr v = .error e) : e.isAccessAt addr :=
  State.locate_error (State.writeByte_error.mp h)

theorem State.readWord_error_isAccess {s : State} {addr : Addr} {e : Trap} (h : s.readWord addr = .error e) :
    e.isAccess := by
  rcases s.readWord_cases addr with ⟨lo, hi, -, -, hw⟩ | ⟨t, ht, hw⟩ | ⟨lo, t, -, ht, hw⟩ <;> rw [hw] at h <;> cases h
  · exact ⟨_, State.readByte_error_isAccessAt ht⟩
  · exact ⟨_, State.readByte_error_isAccessAt ht⟩

theorem getAbsByte_error_isAccess {s : State} {addr : Addr} {e : Trap} (h : getAbsByte addr s = .error e) :
    e.isAccess := by
  unfold getAbsByte at h
  split at h <;> cases h
  exact ⟨addr, State.readByte_error_isAccessAt ‹_›⟩

theorem getRel_error_isAccess {s : State} {addr : Addr} {e : Trap} (h : getRel addr s = .error e) :
    e.isAccess := by
  unfold getRel at h
  split at h <;> cases h
  exact ⟨addr, State.readByte_error_isAccessAt ‹_›⟩

/-- An operand read fails by a memory access alone (40_step_operands.md R111 to R117). -/
theorem getOperand_error_isAccess {o : Operand} {s : State} {e : Trap} (h : getOperand o s = .error e) :
    e.isAccess := by
  cases o with
  | absByte addr => exact getAbsByte_error_isAccess h
  | indByte n => exact getAbsByte_error_isAccess h
  | absWord addr => exact State.readWord_error_isAccess h
  | indWord n => exact State.readWord_error_isAccess h
  | rel addr => exact getRel_error_isAccess h
  | reg n => cases h
  | flag f => cases h
  | notFlag f => cases h

/-! ## What everything but halt entry and RESET keeps -/

/-- Both buffers are canonical and inside their size (10_state.md R21, R22). -/
def State.buffersOk (s : State) : Prop :=
  s.buffersWf ∧ s.rom.below s.romLen = true ∧ s.ram.below Config.ramSize = true

/-- `t` is as good as `s`: STATUS and HALTREC are those of `s`, and its buffers are still canonical and in bounds. -/
structure State.Keeps (s t : State) : Prop where
  status : t.status = s.status
  haltRec : t.haltRec = s.haltRec
  buffersOk : s.buffersOk → t.buffersOk

theorem State.Keeps.refl (s : State) : s.Keeps s := ⟨rfl, rfl, id⟩

theorem State.Keeps.trans {s t u : State} (hst : s.Keeps t) (htu : t.Keeps u) : s.Keeps u :=
  ⟨htu.status.trans hst.status, htu.haltRec.trans hst.haltRec, htu.buffersOk ∘ hst.buffersOk⟩

/-- An update of registers, flags or pc. -/
theorem State.Keeps.of_buffers_eq {s t : State} (hs : t.status = s.status) (hh : t.haltRec = s.haltRec)
    (hl : t.romLen = s.romLen) (hrom : t.rom = s.rom) (hram : t.ram = s.ram) : s.Keeps t := by
  refine ⟨hs, hh, fun h => ?_⟩
  unfold State.buffersOk State.buffersWf
  rw [hl, hrom, hram]
  exact h

theorem State.keeps_setR8 (s : State) (r : Reg8) (v : Byte) : s.Keeps (s.setR8 r v) :=
  .of_buffers_eq (by simp) (by simp) (by simp) (by simp) (by simp)

theorem State.keeps_writeReg (s : State) (n : RegName) (v : Word) : s.Keeps (s.writeReg n v) :=
  .of_buffers_eq (by simp) (by simp) (by simp) (by simp) (by simp)

theorem State.keeps_setZ (s : State) (v : Bool) : s.Keeps (s.setZ v) := .of_buffers_eq rfl rfl rfl rfl rfl

theorem State.keeps_setPc (s : State) (t : Addr) : s.Keeps (s.setPc t) := .of_buffers_eq rfl rfl rfl rfl rfl

theorem State.keeps_advance (s : State) (n : Nat) : s.Keeps (s.advance n) := s.keeps_setPc _

/-- A located access lies inside its buffer, so writing there keeps the bound (R21, R22, R42). -/
theorem State.keeps_setBuffer {s : State} {addr : Addr} {loc : Region × Nat} (h : s.locate addr = .ok loc) (v : Byte) :
    s.Keeps (s.setBuffer loc v) := by
  refine ⟨by simp, by simp, fun ⟨hwf, hrom, hram⟩ => ⟨State.setBuffer_buffersWf hwf loc v, ?_⟩⟩
  rcases s.locate_cases addr with ⟨⟨region, off⟩, hl, htr, hlen⟩ | ⟨hl, -⟩ | ⟨hl, -⟩ <;> rw [h] at hl <;> cases hl
  cases region with
  | rom => exact ⟨Memory.below_write hrom (hlen rfl) v, hram⟩
  | ram => exact ⟨hrom, Memory.below_write hram ((translateAddr_bounds htr).2.2 rfl) v⟩

theorem State.keeps_writeByte {s t : State} {addr : Addr} {v : Byte} (h : s.writeByte addr v = .ok t) : s.Keeps t := by
  obtain ⟨loc, hl, rfl⟩ := State.writeByte_ok.mp h
  exact State.keeps_setBuffer hl v

/-! ## How an instruction of the table can end in Execute -/

/-- The result is one a row can have from `s`: every write made so far is kept within bounds, STATUS and HALTREC are
untouched, and what it raises is a failed memory access (R223, R225: causes 3 and 4 do not occur). -/
def Result.regularFrom (s : State) : Result → Prop
  | .done t => s.Keeps t
  | .raised e t => s.Keeps t ∧ e.isAccess

theorem Result.regularFrom.trans {s t : State} {r : Result} (hst : s.Keeps t) (h : r.regularFrom t) :
    r.regularFrom s := by
  cases r with
  | done u => exact State.Keeps.trans hst h
  | raised e u => exact ⟨hst.trans h.1, h.2⟩

theorem Result.regularFrom.andThen {s : State} {r : Result} {k : State → Result} (h : r.regularFrom s)
    (hk : ∀ t, (k t).regularFrom t) : (r.andThen k).regularFrom s := by
  cases r with
  | done t => exact .trans h (hk t)
  | raised e t => exact h

/-- A word write, completed or stopped after its first byte (20_memory.md R48). -/
theorem State.writeWord_regularFrom (s : State) (addr : Addr) (v : Word) : (s.writeWord addr v).regularFrom s := by
  rcases s.writeWord_cases addr v with ⟨s1, s2, h1, h2, hw⟩ | ⟨e, he, hw⟩ | ⟨s1, e, h1, he, hw⟩ <;> rw [hw]
  · exact (State.keeps_writeByte h1).trans (State.keeps_writeByte h2)
  · exact ⟨.refl s, _, State.writeByte_error_isAccessAt he⟩
  · exact ⟨State.keeps_writeByte h1, _, State.writeByte_error_isAccessAt he⟩

theorem liftWrite_writeByte_regularFrom (s : State) (addr : Addr) (v : Byte) :
    (liftWrite s (s.writeByte addr v)).regularFrom s := by
  rcases h : s.writeByte addr v with e | t
  · exact ⟨.refl s, addr, State.writeByte_error_isAccessAt h⟩
  · exact State.keeps_writeByte h

/-- A write to an operand that a row may write (`Operand.isDestination`). -/
theorem setOperand_regularFrom {o : Operand} (ho : o.isDestination = true) (v : Word) (s : State) :
    (setOperand o v s).regularFrom s := by
  cases o with
  | reg n => exact s.keeps_writeReg n v
  | indByte n => exact liftWrite_writeByte_regularFrom s _ _
  | _ => cases ho

theorem withOperand_regularFrom (o : Operand) {s : State} {k : Word → Result} (hk : ∀ v, (k v).regularFrom s) :
    (withOperand o s k).regularFrom s := by
  rcases withOperand_cases o s k with ⟨v, -, h⟩ | ⟨e, he, h⟩ <;> rw [h]
  · exact hk v
  · exact ⟨.refl s, getOperand_error_isAccess he⟩

theorem binary_regularFrom (f : Word → Word → Word) {op1 : Operand} (h : op1.isDestination = true) (op2 : Operand)
    (s : State) : (binary f op1 op2 s).regularFrom s :=
  withOperand_regularFrom op1 fun _ => withOperand_regularFrom op2 fun _ => setOperand_regularFrom h _ s

theorem unary_regularFrom (f : Word → Word) {op : Operand} (h : op.isDestination = true) (s : State) :
    (unary f op s).regularFrom s :=
  withOperand_regularFrom op fun _ => setOperand_regularFrom h _ s

theorem runLoad_regularFrom {dst : Operand} (h : dst.isDestination = true) (src : Operand) (s : State) :
    (runLoad dst src s).regularFrom s :=
  withOperand_regularFrom src fun _ => setOperand_regularFrom h _ s

theorem runDec_regularFrom {op : Operand} (h : op.isDestination = true) (s : State) :
    (runDec op s).regularFrom s :=
  withOperand_regularFrom op fun _ => (setOperand_regularFrom h _ s).andThen fun t => t.keeps_setZ _

theorem runJump_regularFrom (cond target : Operand) (s : State) : (runJump cond target s).regularFrom s := by
  refine withOperand_regularFrom cond fun c => ?_
  split
  · exact .refl s
  · exact withOperand_regularFrom target fun t => s.keeps_setPc t

/-- A plain member of a Stacked list (44_misc.md R212). -/
theorem execute_wfMember_regularFrom {r : Record} (h : r.wfMember = true) (s : State) :
    (execute r s).regularFrom s := by
  cases r <;> simp only [Record.wfMember, Bool.and_eq_true, Bool.false_eq_true] at h <;> simp only [execute]
  case nop => exact .refl s
  case di => exact .refl s
  case add o1 o2 =>
    obtain ⟨⟨hdst, -⟩, -⟩ := h
    exact binary_regularFrom _ hdst o2 s
  case xor o1 o2 =>
    obtain ⟨⟨hdst, -⟩, -⟩ := h
    exact binary_regularFrom _ hdst o2 s
  case load d src =>
    obtain ⟨⟨hdst, -⟩, -⟩ := h
    exact runLoad_regularFrom hdst src s
  case inc o => exact unary_regularFrom _ h s
  case shl o => exact unary_regularFrom _ h s
  case dec o => exact runDec_regularFrom h s
  case cpl => exact s.keeps_setR8 _ _

theorem executeSeq_regularFrom {seq : List Record} (h : ∀ r ∈ seq, r.wfMember = true) (s : State) :
    (executeSeq seq s).regularFrom s := by
  induction seq generalizing s with
  | nil =>
    rw [executeSeq_nil]
    exact State.Keeps.refl s
  | cons r rest ih =>
    rw [executeSeq_cons]
    exact (execute_wfMember_regularFrom (h r (by simp)) s).andThen (ih fun q hq => h q (by simp [hq]))

/-- A well-formed record that is not Undefined. -/
theorem execute_wf_regularFrom {r : Record} (h : r.wf = true) (hr : ∀ op addr sub, r ≠ .undefined op addr sub)
    (s : State) : (execute r s).regularFrom s := by
  cases r with
  | jump c t => simpa only [execute] using runJump_regularFrom c t s
  | stacked seq =>
    simp only [Record.wf, Bool.and_eq_true, List.all_eq_true] at h
    simpa only [execute] using executeSeq_regularFrom h.2 s
  | undefined op addr sub => exact absurd rfl (hr op addr sub)
  | _ =>
    apply execute_wfMember_regularFrom
    exact h

/-- Execute of a row, after its Advance-PC. -/
theorem execute_record_regularFrom (f : Form) (pc0 : Addr) (s : State) :
    (execute (f.record pc0) s).regularFrom s :=
  execute_wf_regularFrom (f.record_wf pc0) (f.record_ne_undefined pc0) s

/-! ## The halt records a step writes (10_state.md R24) -/

/-- The record of a failed access, with the address Fetch and Decode fail at. -/
theorem State.takeHalt_legal_of_access {e : Trap} {addr : Addr} (he : e.isAccessAt addr) (s : State) {ph : Phase}
    {pc0 : Addr} {op : Option Byte} (hop : op.isSome = true ↔ ph ≠ .fetch) (hfetch : ph = .fetch → addr = pc0)
    (hdecode : ph = .decode → op = some cbPrefix ∧ addr = pc0 + 1#16) :
    HaltRec.legal (s.takeHalt ph pc0 op e).haltRec := by
  rcases he with rfl | rfl
  · simpa [HaltRec.legal, invalidAddress, hop, cbPrefix] using And.intro hfetch hdecode
  · simpa [HaltRec.legal, romRange, hop, cbPrefix] using And.intro hfetch hdecode

/-- The record of an Undefined opcode: `sub` only after the byte 0xCB. -/
theorem State.takeHalt_legal_of_unimplemented (s : State) (pc0 : Addr) {op : Byte} {sub : Option Byte}
    (h : sub.isSome = true → op = cbPrefix) :
    HaltRec.legal (s.takeHalt .execute pc0 (some op) (unimplementedOpcode sub)).haltRec := by
  simpa [HaltRec.legal, unimplementedOpcode, cbPrefix] using h

/-- The Decoder answers a second byte only after the byte 0xCB (decision D17). -/
theorem decode_undefined_sub {p : Profile} {op byte1 op' : Byte} {sub : Option Byte}
    (h : decode p op byte1 = .undefined op' sub) (hsub : sub.isSome = true) : op' = cbPrefix := by
  unfold decode at h
  split at h
  · split at h <;> cases h
    cases hsub
  · split at h
    · split at h <;> cases h
      assumption
    · split at h <;> cases h
      cases hsub

/-! ## The invariant -/

theorem invariant_iff (s : State) :
    Invariant s ↔ s.buffersOk ∧ (s.status = .running → s.haltRec.cause = .none) ∧
      (s.status = .halted → HaltRec.legal s.haltRec) := by
  unfold Invariant State.buffersOk State.buffersWf
  tauto

theorem State.Keeps.invariant {s t : State} (h : s.Keeps t) (hs : Invariant s) : Invariant t := by
  obtain ⟨hst, hrec, hbuf⟩ := h
  rw [invariant_iff] at hs ⊢
  rw [hst, hrec]
  exact ⟨hbuf hs.1, hs.2⟩

/-- Halt entry with a legal record: the buffers stay as they were (60_exceptions.md R224). -/
theorem invariant_takeHalt {s : State} (h : s.buffersOk) {ph : Phase} {pc0 : Addr} {op : Option Byte} {e : Trap}
    (hlegal : HaltRec.legal (s.takeHalt ph pc0 op e).haltRec) : Invariant (s.takeHalt ph pc0 op e) :=
  (invariant_iff _).mpr ⟨h, nofun, fun _ => hlegal⟩

theorem resetWith_invariant (image : List Byte) : Invariant (State.resetWith image) := by
  refine (invariant_iff _).mpr ⟨⟨State.resetWith_buffersWf image, ?_, rfl⟩, fun _ => rfl, nofun⟩
  simpa [State.resetWith] using Memory.below_ofBytes image 0

/-- The end of Execute, completed or halted by a failed access (40_step_operands.md R106). -/
theorem finish_invariant {s t : State} {r : Result} (hs : Invariant s) (hr : r.regularFrom s) {pc0 : Addr} {op : Byte}
    (h : finish pc0 op r = .next t) : Invariant t := by
  cases r with
  | done u =>
    cases h
    exact State.Keeps.invariant hr hs
  | raised e u =>
    cases h
    obtain ⟨hu, addr, he⟩ := hr
    have hbuf := hu.buffersOk ((invariant_iff s).mp hs).1
    exact invariant_takeHalt hbuf (State.takeHalt_legal_of_access he u (by simp) nofun nofun)

theorem exec_invariant {i : Instr} {s t : State} (hs : Invariant s) (h : exec i s = .next t) : Invariant t := by
  rw [exec_eq_runForm] at h
  have hadv : s.Keeps (s.advance i.form.length) := s.keeps_advance _
  exact finish_invariant hs (.trans hadv (execute_record_regularFrom i.form s.pc _)) h

theorem runUndefined_invariant {op : Byte} {sub : Option Byte} {s t : State} (hs : Invariant s)
    (hsub : sub.isSome = true → op = cbPrefix) (h : runUndefined op sub s = .next t) : Invariant t := by
  rw [runUndefined_eq] at h
  cases h
  have hbuf := (s.keeps_advance (Decoded.undefined op sub).length).buffersOk ((invariant_iff s).mp hs).1
  exact invariant_takeHalt hbuf (State.takeHalt_legal_of_unimplemented _ _ hsub)

/-- A failed read of Fetch or of Decode (40_step_operands.md R101, R103). -/
theorem fetchDecode_halted_invariant {p : Profile} {s t : State} (hs : Invariant s)
    (h : fetchDecode p s = .halted t) : Invariant t := by
  have hbuf := ((invariant_iff s).mp hs).1
  rcases fetchDecode_cases p s with ⟨e, he, hf⟩ | ⟨op, e, -, hop, he, hf⟩ | ⟨op, sub, -, -, hf⟩ <;>
    rw [h] at hf <;> cases hf
  · exact invariant_takeHalt hbuf
      (State.takeHalt_legal_of_access (State.readByte_error_isAccessAt he) s (by simp) (fun _ => rfl) nofun)
  · obtain ⟨-, rfl⟩ := (Profile.readsSecond_iff p op).mp hop
    exact invariant_takeHalt hbuf
      (State.takeHalt_legal_of_access (State.readByte_error_isAccessAt he) s (by simp) nofun fun _ => ⟨rfl, rfl⟩)

theorem fetchDecode_undefined_sub {p : Profile} {s : State} {op : Byte} {sub : Option Byte}
    (h : fetchDecode p s = .decoded (.undefined op sub)) (hsub : sub.isSome = true) : op = cbPrefix := by
  rcases fetchDecode_cases p s with ⟨e, -, hf⟩ | ⟨o, e, -, -, -, hf⟩ | ⟨o, byte1, -, -, hf⟩ <;> rw [h] at hf
  · cases hf
  · cases hf
  · exact decode_undefined_sub (Fetched.decoded.inj hf).symm hsub

/-- Every step keeps the invariant, with either opcode table. -/
theorem stepWith_invariant {p : Profile} {s t : State} (hs : Invariant s) (h : stepWith p s = .next t) :
    Invariant t := by
  rcases stepWith_cases p s with ⟨-, hstep⟩ | ⟨-, u, hf, hstep⟩ | ⟨-, i, -, hstep⟩ | ⟨-, op, sub, hf, hstep⟩ <;>
    rw [hstep] at h
  · cases h
    exact hs
  · cases h
    exact fetchDecode_halted_invariant hs hf
  · exact exec_invariant hs h
  · exact runUndefined_invariant hs (fetchDecode_undefined_sub hf) h

/-! ## The ports (R8; 20_memory.md R56) -/

/-- An XMEM access, whatever it answers: a failed word write may leave its first byte. -/
theorem State.keeps_xmem (s : State) (q : XmemRequest) : s.Keeps (s.xmem q).2 := by
  cases q with
  | getByte addr =>
    simp only [State.xmem]
    split <;> exact .refl s
  | getWord addr =>
    simp only [State.xmem]
    split <;> exact .refl s
  | setByte addr v =>
    simp only [State.xmem]
    split
    · exact State.keeps_writeByte ‹_›
    · exact .refl s
  | setWord addr v =>
    have hw := s.writeWord_regularFrom addr v
    simp only [State.xmem]
    split <;> rename_i h <;> rw [h] at hw
    · exact hw
    · exact hw.1

theorem serve_invariant {s t : State} {q : Request} {reply : Option XmemReply} (hs : Invariant s)
    (h : s.serve q = .next (reply, t)) : Invariant t := by
  cases q with
  | reset image =>
    cases h
    exact resetWith_invariant image
  | step =>
    simp only [State.serve] at h
    split at h <;> cases h
    exact stepWith_invariant hs ‹_›
  | xmem q =>
    cases h
    exact (s.keeps_xmem q).invariant hs

/-- A served list is its first request, then the rest from the state after it. -/
theorem State.serveAll_cons_next {s t : State} {q : Request} {rest : List Request} {replies : List XmemReply}
    (h : s.serveAll (q :: rest) = .next (replies, t)) :
    ∃ reply u later, s.serve q = .next (reply, u) ∧ u.serveAll rest = .next (later, t) := by
  rw [State.serveAll] at h
  split at h
  · cases h
  · cases h
  · rename_i reply u hq
    split at h <;> cases h
    exact ⟨reply, u, _, hq, ‹_›⟩

/-- Settles O55: by induction on the list of requests, each of which keeps the invariant. -/
theorem requestsKeepTheInvariant : Obligations.RequestsKeepTheInvariant := by
  intro qs
  induction qs with
  | nil =>
    intro s t replies hs h
    cases h
    exact hs
  | cons q rest ih =>
    intro s t replies hs h
    obtain ⟨reply, u, later, hq, hrest⟩ := State.serveAll_cons_next h
    exact ih u t later (serve_invariant hs hq) hrest

end Sys2Proof.Machine

/-! Proofs of the family 10_state.md: the register file and the flags (R13 to R17, R27), the program counter (R18, R19),
RESET (R30), and the frame of the rows that store nothing (R31). -/

namespace Sys2Proof.Machine

/-! ## RESET, the register file and the flags -/

/-- Settles O1: the ROM buffer reads as the image by `Memory.read_ofBytes`, every other value is written out. -/
theorem resetLeavesTheStatedValues : Obligations.ResetLeavesTheStatedValues := by
  intro image
  have hrom : ∀ k (h : k < image.length), (State.resetWith image).buffer (.rom, k) = image[k] := by
    intro k h
    have hread := Memory.read_ofBytes image 0 k h
    rwa [Nat.zero_add] at hread
  have hpairs : composeWord 0x00#8 0x13#8 = 0x0013#16 ∧ composeWord 0x00#8 0xD8#8 = 0x00D8#16 ∧
      composeWord 0x01#8 0x4D#8 = 0x014D#16 := by decide
  exact ⟨⟨rfl, rfl, rfl, rfl, rfl, rfl, rfl⟩, hpairs, ⟨rfl, rfl, rfl⟩, rfl, ⟨rfl, hrom⟩, fun _ _ => rfl,
    rfl, rfl, rfl, rfl, rfl⟩

/-- Settles O12: the assignments of Z and C complete with `setZ` and `setCy`. -/
theorem flagReadsAndWrites : Obligations.FlagReadsAndWrites := by
  intro s v
  exact ⟨rfl, ⟨s.setZ v, rfl, rfl, rfl, s.setZ_r8 v⟩, ⟨s.setCy v, rfl, rfl, rfl, s.setCy_r8 v⟩, rfl⟩

/-- The 8-bit registers a register name stands for (10_state.md R12). -/
def namedRegs : RegName → List Reg8
  | .r8 r => [r]
  | .pair p => [highReg p, lowReg p]

/-- A write by name changes the registers it names alone (R14). -/
theorem State.writeReg_r8_other (s : State) {n : RegName} {r : Reg8} (v : Word) (h : r ∉ namedRegs n) :
    (s.writeReg n v).r8 r = s.r8 r := by
  cases n with
  | r8 q => exact s.setR8_r8_other q r _ (by simpa [namedRegs] using h)
  | pair p =>
    have hne : r ≠ highReg p ∧ r ≠ lowReg p := by simpa [namedRegs] using h
    simp [State.writeReg, State.setPair_r8, hne.1, hne.2]

theorem highReg_ne_lowReg (p : Pair) : highReg p ≠ lowReg p := by cases p <;> decide

/-- A pair reads back what was written to it (R14). -/
theorem State.setPair_pair_same (s : State) (p : Pair) (v : Word) : (s.setPair p v).pair p = v := by
  simp [State.pair, State.setPair_r8, highReg_ne_lowReg]

/-- A pair is 256 times its first-named register plus its second (R12). -/
theorem State.pair_toNat (s : State) (p : Pair) :
    (s.pair p).toNat = 256 * (s.r8 (highReg p)).toNat + (s.r8 (lowReg p)).toNat := by
  rw [State.pair, composeWord_toNat, Nat.mul_comm]

theorem zext16_toNat (v : Byte) : (zext16 v).toNat = v.toNat := by
  have hv := v.isLt
  simp [zext16]
  omega

theorem lowByte_toNat (v : Word) : (lowByte v).toNat = v.toNat % 256 := by simp [lowByte]

/-- Settles O11: one lemma of the register file for each clause. -/
theorem registerFileReadsAndWrites : Obligations.RegisterFileReadsAndWrites := by
  refine ⟨fun s r => zext16_toNat _, fun s => ⟨s.pair_toNat .bc, s.pair_toNat .de, s.pair_toNat .hl⟩,
    fun s r v => ⟨?_, fun q hq => s.setR8_r8_other r q _ hq⟩,
    fun s p v => ⟨s.setPair_pair_same p v, fun q hhigh hlow => ?_⟩, fun s n v => by simp⟩
  · simp only [State.writeReg, State.setR8_r8_same, lowByte_toNat]
  · exact s.writeReg_r8_other v (by simp [namedRegs, hhigh, hlow])

/-! ## What a record may write, and the frame of everything else -/

/-- A bound on what Execute writes: these registers, and Z, pc or a byte of memory where the entry says so. Carry and
ROM_LEN have no entry: no record writes them (10_state.md R17, R21). -/
structure Footprint where
  regs : List Reg8
  z : Bool
  pc : Bool
  memory : Bool

/-- Everything outside the footprint is in `t` as it is in `s`. -/
structure Footprint.Frame (fp : Footprint) (s t : State) : Prop where
  r8 : ∀ r, r ∉ fp.regs → t.r8 r = s.r8 r
  z : fp.z = false → t.z = s.z
  cy : t.cy = s.cy
  pc : fp.pc = false → t.pc = s.pc
  romLen : t.romLen = s.romLen
  memory : fp.memory = false → t.rom = s.rom ∧ t.ram = s.ram

/-- The footprint has room for a write to this operand; the rows write registers and bytes through a pair only. -/
def Footprint.allows (fp : Footprint) : Operand → Prop
  | .reg n => ∀ r ∈ namedRegs n, r ∈ fp.regs
  | .indByte _ => fp.memory = true
  | _ => False

/-- The footprint has room for everything a record that is no Stacked writes. -/
def Footprint.coversPlain (fp : Footprint) : Record → Prop
  | .nop | .di | .undefined _ _ _ => True
  | .add op _ | .xor op _ | .load op _ | .inc op | .shl op => fp.allows op
  | .dec op => fp.allows op ∧ fp.z = true
  | .jump _ _ => fp.pc = true
  | .cpl => .a ∈ fp.regs
  | .stacked _ => False

/-- The footprint has room for everything a record writes. -/
def Footprint.covers (fp : Footprint) : Record → Prop
  | .stacked seq => ∀ r ∈ seq, fp.coversPlain r
  | r => fp.coversPlain r

/-- What the spec's tables let a form write, the form beginning in `s` (R17, R19, R31; 20_memory.md R61). -/
def Footprint.ofForm (f : Form) (s : State) : Footprint :=
  { regs := f.destRegs, z := f.writesZ, pc := f.isJump, memory := (f.storeAddr s).isSome }

/-- The record of every form writes only what the spec's tables say. -/
theorem Footprint.ofForm_covers (f : Form) (s : State) (pc0 : Addr) : (ofForm f s).covers (f.record pc0) := by
  -- every destination of the record, form by form, against the entry of the tables for that form
  cases f <;> simp [ofForm, covers, coversPlain, allows, namedRegs, Form.record, Form.destRegs, Form.writesZ,
    Form.isJump, Form.storeAddr, highReg, lowReg]

/-- The state a result leaves, completed or raised. -/
def Result.state : Result → State
  | .done s => s
  | .raised _ s => s

section Frames

variable {fp : Footprint} {s t u : State}

theorem Footprint.Frame.refl (fp : Footprint) (s : State) : fp.Frame s s :=
  ⟨fun _ _ => rfl, fun _ => rfl, rfl, fun _ => rfl, rfl, fun _ => ⟨rfl, rfl⟩⟩

theorem Footprint.Frame.trans (hst : fp.Frame s t) (htu : fp.Frame t u) : fp.Frame s u where
  r8 r hr := (htu.r8 r hr).trans (hst.r8 r hr)
  z h := (htu.z h).trans (hst.z h)
  cy := htu.cy.trans hst.cy
  pc h := (htu.pc h).trans (hst.pc h)
  romLen := htu.romLen.trans hst.romLen
  memory h := ⟨(htu.memory h).1.trans (hst.memory h).1, (htu.memory h).2.trans (hst.memory h).2⟩

theorem Footprint.frame_writeReg {n : RegName} (h : ∀ r ∈ namedRegs n, r ∈ fp.regs) (v : Word) (s : State) :
    fp.Frame s (s.writeReg n v) where
  r8 r hr := s.writeReg_r8_other v fun hn => hr (h r hn)
  z _ := by simp
  cy := by simp
  pc _ := by simp
  romLen := by simp
  memory _ := by simp

theorem Footprint.frame_setZ (h : fp.z = true) (v : Bool) (s : State) : fp.Frame s (s.setZ v) :=
  ⟨fun r _ => s.setZ_r8 v r, by simp [h], rfl, fun _ => rfl, rfl, fun _ => ⟨rfl, rfl⟩⟩

theorem Footprint.frame_setPc (h : fp.pc = true) (a : Addr) (s : State) : fp.Frame s (s.setPc a) :=
  ⟨fun r _ => s.setPc_r8 a r, fun _ => rfl, rfl, by simp [h], rfl, fun _ => ⟨rfl, rfl⟩⟩

theorem Footprint.frame_takeHalt (fp : Footprint) (s : State) (ph : Phase) (pc0 : Addr) (op : Option Byte) (e : Trap) :
    fp.Frame s (s.takeHalt ph pc0 op e) :=
  ⟨fun r _ => s.takeHalt_r8 ph pc0 op e r, fun _ => rfl, rfl, fun _ => rfl, rfl, fun _ => ⟨rfl, rfl⟩⟩

theorem Footprint.frame_writeByte (h : fp.memory = true) {addr : Addr} {v : Byte} (hw : s.writeByte addr v = .ok t) :
    fp.Frame s t := by
  obtain ⟨hr8, hz, hcy, hpc, hlen, -, -⟩ := State.writeByte_frame hw
  exact ⟨fun r _ => hr8 r, fun _ => hz, hcy, fun _ => hpc, hlen, by simp [h]⟩

/-- A write to an operand, completed or failed. -/
theorem Footprint.frame_setOperand {op : Operand} (h : fp.allows op) (v : Word) (s : State) :
    fp.Frame s (setOperand op v s).state := by
  cases op with
  | reg n => exact frame_writeReg h v s
  | indByte n =>
    rw [setOperand]
    rcases hw : s.writeByte (s.readReg n) (lowByte v) with e | t
    · exact .refl fp s
    · exact frame_writeByte h hw
  | _ => exact h.elim

theorem Footprint.frame_andThen {r : Result} {k : State → Result} (h : fp.Frame s r.state)
    (hk : ∀ t, fp.Frame t (k t).state) : fp.Frame s (r.andThen k).state := by
  cases r with
  | done t => exact h.trans (hk t)
  | raised e t => exact h

/-- Reading an operand changes nothing, whether or not it completes. -/
theorem Footprint.frame_withOperand (op : Operand) {k : Word → Result} (hk : ∀ v, fp.Frame s (k v).state) :
    fp.Frame s (withOperand op s k).state := by
  rcases withOperand_cases op s k with ⟨v, -, h⟩ | ⟨e, -, h⟩ <;> rw [h]
  · exact hk v
  · exact .refl fp s

theorem Footprint.frame_binary (f : Word → Word → Word) {op1 : Operand} (h : fp.allows op1) (op2 : Operand)
    (s : State) : fp.Frame s (binary f op1 op2 s).state :=
  frame_withOperand op1 fun _ => frame_withOperand op2 fun _ => frame_setOperand h _ s

theorem Footprint.frame_unary (f : Word → Word) {op : Operand} (h : fp.allows op) (s : State) :
    fp.Frame s (unary f op s).state :=
  frame_withOperand op fun _ => frame_setOperand h _ s

theorem Footprint.frame_runLoad {dst : Operand} (h : fp.allows dst) (src : Operand) (s : State) :
    fp.Frame s (runLoad dst src s).state :=
  frame_withOperand src fun _ => frame_setOperand h _ s

theorem Footprint.frame_runDec {op : Operand} (h : fp.allows op) (hz : fp.z = true) (s : State) :
    fp.Frame s (runDec op s).state :=
  frame_withOperand op fun _ => frame_andThen (frame_setOperand h _ s) fun t => frame_setZ hz _ t

theorem Footprint.frame_runJump (h : fp.pc = true) (cond target : Operand) (s : State) :
    fp.Frame s (runJump cond target s).state := by
  refine frame_withOperand cond fun c => ?_
  split
  · exact .refl fp s
  · exact frame_withOperand target fun a => frame_setPc h a s

theorem Footprint.frame_runCpl (h : .a ∈ fp.regs) (s : State) : fp.Frame s (runCpl s).state := by
  have hw := frame_writeReg (fp := fp) (n := .r8 .a) (by simpa [namedRegs] using h) (zext16 (s.r8 .a ^^^ 0xFF#8)) s
  rw [State.writeReg, lowByte_zext16] at hw
  exact hw

theorem Footprint.frame_execute_plain {r : Record} (h : fp.coversPlain r) (s : State) :
    fp.Frame s (execute r s).state := by
  cases r <;> simp only [execute]
  case nop => exact .refl fp s
  case di => exact .refl fp s
  case undefined => exact .refl fp s
  case add op1 op2 => exact frame_binary _ h op2 s
  case xor op1 op2 => exact frame_binary _ h op2 s
  case load dst src => exact frame_runLoad h src s
  case jump cond target => exact frame_runJump h cond target s
  case inc op => exact frame_unary _ h s
  case shl op => exact frame_unary _ h s
  case dec op => exact frame_runDec h.1 h.2 s
  case cpl => exact frame_runCpl h s
  case stacked seq => exact h.elim

theorem Footprint.frame_executeSeq {seq : List Record} (h : ∀ r ∈ seq, fp.coversPlain r) (s : State) :
    fp.Frame s (executeSeq seq s).state := by
  induction seq generalizing s with
  | nil =>
    rw [executeSeq_nil]
    exact Frame.refl fp s
  | cons r rest ih =>
    rw [executeSeq_cons]
    exact frame_andThen (frame_execute_plain (h r (by simp)) s) (ih fun q hq => h q (by simp [hq]))

/-- Execute of a record changes nothing outside a footprint that covers it, whether or not it raises. -/
theorem Footprint.frame_execute {r : Record} (h : fp.covers r) (s : State) : fp.Frame s (execute r s).state := by
  cases r with
  | stacked seq => simpa only [execute] using frame_executeSeq h s
  | _ =>
    apply frame_execute_plain
    exact h

theorem Footprint.frame_finish {r : Result} {pc0 : Addr} {op : Byte} (h : fp.Frame s r.state)
    (ht : finish pc0 op r = .next t) : fp.Frame s t := by
  cases r with
  | done u =>
    cases ht
    exact h
  | raised e u =>
    cases ht
    exact h.trans (frame_takeHalt fp u _ _ _ e)

end Frames

/-- The frame of every row, after its Advance-PC: the spec's tables bound what it writes. -/
theorem exec_frame {i : Instr} {s t : State} (h : exec i s = .next t) :
    (Footprint.ofForm i.form s).Frame (s.advance i.form.length) t := by
  rw [exec_eq_runForm] at h
  exact Footprint.frame_finish (Footprint.frame_execute (Footprint.ofForm_covers i.form s s.pc) _) h

/-! ## The flags (R17) -/

/-- The flags of a step: Carry never changes, and Z only in a row with a Decrement. -/
theorem stepWith_flags {p : Profile} {s t : State} (h : stepWith p s = .next t) :
    t.cy = s.cy ∧ (t.z = s.z ∨ ∃ i, fetchDecode p s = .decoded (.row i) ∧ i.form.writesZ = true) := by
  rcases stepWith_cases p s with ⟨-, hs⟩ | ⟨-, u, hf, hs⟩ | ⟨-, i, hf, hs⟩ | ⟨-, op, sub, -, hs⟩ <;> rw [hs] at h
  · cases h
    exact ⟨rfl, .inl rfl⟩
  · cases h
    rcases fetchDecode_cases p s with ⟨e, -, hc⟩ | ⟨op, e, -, -, -, hc⟩ | ⟨op, sub, -, -, hc⟩ <;>
      rw [hf] at hc <;> cases hc
    · exact ⟨rfl, .inl rfl⟩
    · exact ⟨rfl, .inl rfl⟩
  · have hframe := exec_frame h
    refine ⟨hframe.cy, ?_⟩
    by_cases hz : i.form.writesZ = true
    · exact .inr ⟨i, hf, hz⟩
    · exact .inl (hframe.z (by simpa [Footprint.ofForm] using hz))
  · rw [runUndefined_eq] at h
    cases h
    exact ⟨rfl, .inl rfl⟩

/-- What every step keeps holds at the end of every run. -/
theorem core_run_keeps {P : State → Prop} (hstep : ∀ s t, P s → step s = .next t → P t) {k : Nat} {s t : State}
    (hs : P s) (h : core.run k s = .next t) : P t := by
  induction k generalizing s with
  | zero =>
    cases h
    exact hs
  | succ k ih =>
    obtain ⟨u, hu⟩ := stepWith_next Config.profile s
    rw [core_run_succ k s u hu] at h
    exact ih (hstep s u hs hu) h

/-- Settles O52: from the flags of one step, and from RESET by `core_run_keeps`. -/
theorem onlyDecrementWritesAFlag : Obligations.OnlyDecrementWritesAFlag := by
  refine ⟨fun p s t h => (stepWith_flags h).1, fun i s t h hz => (exec_frame h).z hz, fun p s t h hne => ?_,
    fun image k t h => ?_⟩
  · exact (stepWith_flags h).2.resolve_left hne
  · refine core_run_keeps (P := fun s => s.cy = false) (fun s t hs ht => ?_) rfl h
    exact (stepWith_flags ht).1.trans hs

/-! ## The program counter (R18, R19) -/

/-- No instruction is longer than three bytes (30_encoding.md R71). -/
theorem format_length_le_three (f : Format) : f.length ≤ 3 := by cases f <;> decide

/-- No address from 0xFE00 on can be read (20_memory.md R41, R42). -/
theorem State.toNat_lt_of_readByte_ok {s : State} {addr : Addr} {v : Byte} (h : s.readByte addr = .ok v) :
    addr.toNat < 0xFE00 := by
  obtain ⟨loc, hl, -⟩ := State.readByte_ok.mp h
  have htr := State.translate_of_locate hl
  rcases translateAddr_cases addr with ⟨-, -, hlt⟩ | ⟨-, -, hlt⟩ | ⟨-, -, hlt⟩ | ⟨hnone, -⟩
  · omega
  · omega
  · exact hlt
  · rw [hnone] at htr
    cases htr

/-- Settles O53: the frame of a row that is no jump has pc in it, and an opcode lies below 0xFE00. -/
theorem onlyJumpsWritePc : Obligations.OnlyJumpsWritePc := by
  refine ⟨fun i s t h hj => (exec_frame h).pc hj, fun s op f hop => ?_⟩
  have hpc := State.toNat_lt_of_readByte_ok hop
  have hlen : f.length ≤ 3 := format_length_le_three f.format
  rw [BitVec.toNat_add, BitVec.toNat_ofNat]
  omega

/-! ## A row completes when every address it accesses can be read (60_exceptions.md R227) -/

/-- Reading the operand completes. -/
def Readable (op : Operand) (s : State) : Prop := ∃ v, getOperand op s = .ok v

section ReadableOperands

variable {s : State} {n : Nat} {addr : Addr}

@[simp] theorem readable_reg (x : RegName) (t : State) : Readable (.reg x) t := ⟨_, rfl⟩

/-! After Advance-PC, which no memory access depends on. -/

@[simp] theorem readable_absByte_iff :
    Readable (.absByte addr) (s.advance n) ↔ ∃ v, s.readByte addr = .ok v := by
  rw [Readable, getOperand, getAbsByte, State.advance_readByte]
  rcases s.readByte addr with e | v <;> simp

@[simp] theorem readable_rel_iff : Readable (.rel addr) (s.advance n) ↔ ∃ v, s.readByte addr = .ok v := by
  rw [Readable, getOperand, getRel, State.advance_readByte]
  rcases s.readByte addr with e | v <;> simp

@[simp] theorem readable_indByte_iff {p : Pair} :
    Readable (.indByte (.pair p)) (s.advance n) ↔ ∃ v, s.readByte (s.pair p) = .ok v := by
  rw [Readable, getOperand, State.advance_readReg]
  exact readable_absByte_iff

@[simp] theorem readable_absWord_iff :
    Readable (.absWord addr) (s.advance n) ↔
      (∃ lo, s.readByte addr = .ok lo) ∧ ∃ hi, s.readByte (addr + 1#16) = .ok hi := by
  rw [Readable, getOperand, State.advance_readWord]
  rcases s.readWord_cases addr with ⟨lo, hi, hlo, hhi, h⟩ | ⟨e, he, h⟩ | ⟨lo, e, -, he, h⟩ <;> simp [*]

end ReadableOperands

/-- The result is a completed one. -/
def Result.IsDone (r : Result) : Prop := ∃ t, r = .done t

theorem Result.IsDone.andThen {r : Result} {k : State → Result} (h : r.IsDone) (hk : ∀ t, (k t).IsDone) :
    (r.andThen k).IsDone := by
  obtain ⟨t, rfl⟩ := h
  exact hk t

theorem withOperand_isDone {op : Operand} {s : State} {k : Word → Result} (h : Readable op s)
    (hk : ∀ v, (k v).IsDone) : (withOperand op s k).IsDone := by
  obtain ⟨v, hv⟩ := h
  rw [withOperand_ok hv]
  exact hk v

/-- An operand that a row may write is written where it can be read (20_memory.md R45, R46). -/
theorem setOperand_isDone {op : Operand} {s : State} (hdst : op.isDestination = true) (h : Readable op s) (v : Word) :
    (setOperand op v s).IsDone := by
  cases op with
  | reg n => exact ⟨_, rfl⟩
  | indByte n =>
    obtain ⟨w, hw⟩ := h
    rcases hr : s.readByte (s.readReg n) with e | b
    · rw [getOperand_indByte_error hr] at hw
      cases hw
    · obtain ⟨loc, hl, -⟩ := State.readByte_ok.mp hr
      exact ⟨_, setOperand_indByte_ok hl⟩
  | _ => cases hdst

/-- The operands of a record that is no Stacked. -/
def plainOperands : Record → List Operand
  | .add op1 op2 | .xor op1 op2 | .load op1 op2 | .jump op1 op2 => [op1, op2]
  | .inc op | .dec op | .shl op => [op]
  | .nop | .di | .cpl | .undefined _ _ _ | .stacked _ => []

/-- A plain record completes when all its operands can be read. -/
theorem execute_plain_isDone {r : Record} {s : State} (hwf : r.wfMember = true)
    (h : ∀ op ∈ plainOperands r, Readable op s) : (execute r s).IsDone := by
  cases r <;> simp only [Record.wfMember, Bool.and_eq_true, Bool.false_eq_true] at hwf <;>
    simp only [plainOperands, List.forall_mem_cons, List.not_mem_nil, false_implies, implies_true, and_true] at h <;>
    simp only [execute]
  case nop => exact ⟨s, rfl⟩
  case di => exact ⟨s, rfl⟩
  case cpl => exact ⟨_, rfl⟩
  case add op1 op2 =>
    obtain ⟨⟨hdst, -⟩, -⟩ := hwf
    exact withOperand_isDone h.1 fun _ => withOperand_isDone h.2 fun _ => setOperand_isDone hdst h.1 _
  case xor op1 op2 =>
    obtain ⟨⟨hdst, -⟩, -⟩ := hwf
    exact withOperand_isDone h.1 fun _ => withOperand_isDone h.2 fun _ => setOperand_isDone hdst h.1 _
  case load dst src =>
    obtain ⟨⟨hdst, -⟩, -⟩ := hwf
    exact withOperand_isDone h.2 fun _ => setOperand_isDone hdst h.1 _
  case inc op => exact withOperand_isDone h fun _ => setOperand_isDone hwf h _
  case shl op => exact withOperand_isDone h fun _ => setOperand_isDone hwf h _
  case dec op => exact withOperand_isDone h fun _ => (setOperand_isDone hwf h _).andThen fun _ => ⟨_, rfl⟩

/-- A jump of the table completes when it is not taken or its target can be read (43_control.md R190). -/
theorem runJump_cond_isDone {cc : Cond} {target : Operand} {s : State} (h : s.condHolds cc = true → Readable target s) :
    (runJump cc.operand target s).IsDone := by
  rw [runJump_cond]
  split
  · exact withOperand_isDone (h ‹_›) fun _ => ⟨_, rfl⟩
  · exact ⟨s, rfl⟩

@[simp] theorem State.advance_condHolds (s : State) (n : Nat) (cc : Cond) :
    (s.advance n).condHolds cc = s.condHolds cc := by
  cases cc <;> rfl

theorem runJump_always_isDone {target : Operand} {s : State} (h : Readable target s) :
    (runJump (.flag .always) target s).IsDone := by
  rw [runJump_always]
  exact withOperand_isDone h fun _ => ⟨_, rfl⟩

theorem addr_succ_succ (addr : Addr) : addr + 1#16 + 1#16 = addr + 2#16 := by
  rw [BitVec.add_assoc]
  rfl

/-- A Stacked of two members completes when the first does and the second reads nothing that can fail
(44_misc.md R212). -/
theorem execute_stacked_isDone {r1 r2 : Record} {s : State} (h1 : (execute r1 s).IsDone) (hwf2 : r2.wfMember = true)
    (h2 : ∀ t, ∀ op ∈ plainOperands r2, Readable op t) : (execute (.stacked [r1, r2]) s).IsDone := by
  rw [execute, executeSeq_cons]
  refine h1.andThen fun t => ?_
  rw [executeSeq_cons]
  exact (execute_plain_isDone hwf2 (h2 t)).andThen fun u => ⟨u, executeSeq_nil u⟩

/-- Execute of a row completes when every address the spec's table lists for it can be read. -/
theorem execute_record_isDone {f : Form} {s : State} (h : ∀ addr ∈ f.accessAddrs s, ∃ v, s.readByte addr = .ok v)
    (n : Nat) : (execute (f.record s.pc) (s.advance n)).IsDone := by
  cases f <;> simp only [Form.accessAddrs, List.forall_mem_cons, List.not_mem_nil, false_implies, implies_true,
    and_true] at h
  case jpAbs =>
    rw [Form.record, execute]
    exact runJump_always_isDone (by simpa [addr_succ_succ] using h)
  case jrRel =>
    rw [Form.record, execute]
    exact runJump_always_isDone (by simpa using h)
  case jpHL =>
    rw [Form.record, execute]
    exact runJump_always_isDone (by simp)
  case jpAbsCC cc =>
    rw [Form.record, execute]
    refine runJump_cond_isDone fun hcc => ?_
    rw [State.advance_condHolds] at hcc
    simpa [hcc, addr_succ_succ] using h
  case jrRelCC cc =>
    rw [Form.record, execute]
    refine runJump_cond_isDone fun hcc => ?_
    rw [State.advance_condHolds] at hcc
    simpa [hcc] using h
  case ldHLIncA | ldAHLInc | ldHLDecA | ldAHLDec =>
    refine execute_stacked_isDone (execute_plain_isDone rfl ?_) rfl (by simp [plainOperands])
    simpa [plainOperands] using h
  all_goals
    apply execute_plain_isDone rfl
    simp [Form.record, plainOperands, addr_succ_succ, h]

/-- A row that completes leaves STATUS and HALTREC as they were (60_exceptions.md R227, R229). -/
theorem exec_keeps_of_readable {i : Instr} {s t : State} (h : exec i s = .next t)
    (hread : ∀ addr ∈ i.form.accessAddrs s, ∃ v, s.readByte addr = .ok v) : s.Keeps t := by
  obtain ⟨u, hu⟩ := execute_record_isDone hread i.form.length
  have hreg := execute_record_regularFrom i.form s.pc (s.advance i.form.length)
  rw [exec_eq_runForm, runForm, runRecord, hu] at h
  rw [hu] at hreg
  cases h
  exact (s.keeps_advance _).trans hreg

/-- Settles O57: the frame of the row, and STATUS and HALTREC because it completes where its addresses can be read. -/
theorem frameOfRowsThatStoreNothing : Obligations.FrameOfRowsThatStoreNothing := by
  intro i s t hstore _ h
  have hframe := exec_frame h
  obtain ⟨hrom, hram⟩ := hframe.memory (by simp [Footprint.ofForm, hstore])
  refine ⟨fun r hr => (hframe.r8 r hr).trans (s.advance_r8 _ r), hframe.z, hframe.cy, hframe.romLen, hrom, hram,
    State.readByte_congr hframe.romLen hrom hram, fun hread => ?_⟩
  have hkeeps := exec_keeps_of_readable h hread
  exact ⟨hkeeps.status, hkeeps.haltRec⟩

end Sys2Proof.Machine

/-! Proofs of the family 20_memory.md: the address map (R41 to R43), byte and word access (R45 to R49, R59), XMEM (R56)
and the frame of the rows that store (R61). -/

namespace Sys2Proof.Machine

/-! ## The address map (R41, R42) -/

/-- The addresses that select no byte (R41). -/
theorem translateAddr_eq_none_iff {addr : Addr} :
    translateAddr addr = none ↔ addr.toNat = 0 ∨ (0x8000 ≤ addr.toNat ∧ addr.toNat ≤ 0xC000) ∨
      addr.toNat = 0xE000 ∨ 0xFE00 ≤ addr.toNat := by
  rcases translateAddr_cases addr with ⟨h, hlo, hhi⟩ | ⟨h, hlo, hhi⟩ | ⟨h, hlo, hhi⟩ | ⟨h, hout⟩ <;>
    simp only [h, reduceCtorEq, false_iff, true_iff]
  · omega
  · omega
  · omega
  · exact hout

/-- Settles O4: one lemma of `translateAddr` for each window, `translateAddr_eq_none_iff` for the gaps. -/
theorem translateFollowsTheAddressMap : Obligations.TranslateFollowsTheAddressMap := by
  intro addr
  refine ⟨fun h => ?_, fun h => translateAddr_rom (by omega) (by omega), fun h => ?_,
    fun h => translateAddr_ram (by omega) (by omega), fun h => ?_,
    fun h => translateAddr_mirror (by omega) (by omega), fun h => ?_⟩ <;>
    rw [translateAddr_eq_none_iff]
  · exact .inl h
  · exact .inr (.inl h)
  · exact .inr (.inr (.inl h))
  · exact .inr (.inr (.inr h))

/-- The addresses above the mirror's reach, 0xDE00 to 0xDFFF, share their byte with no other address (R43). -/
theorem translateAddr_injective_above_mirror {addr other : Addr} (hlo : 0xDE00 ≤ addr.toNat) (hhi : addr.toNat ≤ 0xDFFF)
    (h : translateAddr other = translateAddr addr) : other = addr := by
  have haddr : translateAddr addr = some (.ram, addr.toNat - 0xC000) := translateAddr_ram (by omega) (by omega)
  rw [haddr] at h
  apply BitVec.eq_of_toNat_eq
  rcases translateAddr_cases other with ⟨ho, _, _⟩ | ⟨ho, _, _⟩ | ⟨ho, _, _⟩ | ⟨ho, _⟩ <;>
    simp only [ho, Option.some.injEq, Prod.mk.injEq, reduceCtorEq, false_and, true_and] at h
  · omega
  · omega

/-- After a mapped address the next is unmapped only at the end of a window (R47). -/
theorem translateAddr_succ_eq_none_iff {addr : Addr} (h : translateAddr addr ≠ none) :
    translateAddr (addr + 1#16) = none ↔ addr = 0x7FFF#16 ∨ addr = 0xDFFF#16 ∨ addr = 0xFDFF#16 := by
  have hlt := addr.isLt
  rw [ne_eq, translateAddr_eq_none_iff] at h
  rw [translateAddr_eq_none_iff]
  simp only [← BitVec.toNat_inj, BitVec.toNat_add, BitVec.toNat_ofNat]
  omega

/-! ## Where an access lands, from what its address translates to (R45, R46, R49) -/

section Locate

variable {s : State} {addr : Addr} {off : Nat} {loc : Region × Nat} {e : Trap}

theorem State.locate_of_unmapped (h : translateAddr addr = none) : s.locate addr = .error (invalidAddress addr) := by
  simp [State.locate, h]

theorem State.locate_of_beyond_image (h : translateAddr addr = some (.rom, off)) (hlen : s.romLen ≤ off) :
    s.locate addr = .error (romRange addr) := by
  simp [State.locate, h, hlen]

theorem State.locate_of_mapped (h : translateAddr addr = some loc) (hlen : loc.1 = .rom → loc.2 < s.romLen) :
    s.locate addr = .ok loc := by
  obtain ⟨region, off⟩ := loc
  cases region with
  | rom =>
    have hbacked : ¬ s.romLen ≤ off := Nat.not_le.mpr (hlen rfl)
    simp [State.locate, h, hbacked]
  | ram => simp [State.locate, h]

/-- A byte read and a byte write fail alike, with what `locate` answers. -/
theorem State.byteAccess_error (h : s.locate addr = .error e) (v : Byte) :
    s.readByte addr = .error e ∧ s.writeByte addr v = .error e :=
  ⟨State.readByte_error.mpr h, State.writeByte_error.mpr h⟩

theorem State.readByte_of_mapped (h : translateAddr addr = some loc) (hlen : loc.1 = .rom → loc.2 < s.romLen) :
    s.readByte addr = .ok (s.buffer loc) :=
  State.readByte_ok.mpr ⟨loc, State.locate_of_mapped h hlen, rfl⟩

theorem State.writeByte_of_mapped (h : translateAddr addr = some loc) (hlen : loc.1 = .rom → loc.2 < s.romLen)
    (v : Byte) : s.writeByte addr v = .ok (s.setBuffer loc v) :=
  State.writeByte_ok.mpr ⟨loc, State.locate_of_mapped h hlen, rfl⟩

/-- With the ROM window backed, an access fails only at an unmapped address (R49). -/
theorem State.readByte_error_of_romBacked (hrom : RomBacked s) (h : s.readByte addr = .error e) :
    translateAddr addr = none ∧ e = invalidAddress addr := by
  rw [State.readByte_error] at h
  rcases s.locate_cases addr with ⟨loc, hl, -⟩ | ⟨hl, hnone⟩ | ⟨-, off, htr, hlen⟩
  · rw [hl] at h
    cases h
  · rw [hl] at h
    cases h
    exact ⟨hnone, rfl⟩
  · obtain ⟨-, hoff⟩ := (translateAddr_bounds htr).2.1 rfl
    exact absurd (hrom.trans hlen) (by omega)

theorem State.translateAddr_ne_none_of_readByte_ok {v : Byte} (h : s.readByte addr = .ok v) :
    translateAddr addr ≠ none := by
  obtain ⟨loc, hl, -⟩ := State.readByte_ok.mp h
  simp [State.translate_of_locate hl]

end Locate

/-! ## Bytes -/

/-- Settles O5: both addresses of an aliased pair translate to one RAM offset, and a read after a write goes by what
its address translates to. -/
theorem ramWindowsAliasOneBuffer : Obligations.RamWindowsAliasOneBuffer := by
  refine ⟨fun addr mirror hlo hhi hmlo hmhi hsame s => ?_,
    fun addr other hlo hhi h => translateAddr_injective_above_mirror hlo hhi h,
    fun addr h => absurd (translateAddr_bounds h).1 (Nat.lt_irrefl 0)⟩
  have haddr := translateAddr_ram hlo hhi
  have hmirror : translateAddr mirror = some (.ram, addr.toNat - 0xC000) := by
    rw [hsame]
    exact translateAddr_mirror hmlo hmhi
  have hread : ∀ {a : Addr}, translateAddr a = some (.ram, addr.toNat - 0xC000) →
      s.readByte a = .ok (s.buffer (.ram, addr.toNat - 0xC000)) :=
    fun h => State.readByte_of_mapped h (by simp)
  have hwrite : ∀ {a : Addr}, translateAddr a = some (.ram, addr.toNat - 0xC000) → ∀ v,
      ∃ t, s.writeByte a v = .ok t ∧ t.readByte addr = .ok v ∧ t.readByte mirror = .ok v := by
    intro a ha v
    have hw := State.writeByte_of_mapped (s := s) ha (by simp) v
    refine ⟨_, hw, ?_, ?_⟩
    · rw [State.readByte_writeByte hw, if_pos (haddr.trans ha.symm)]
    · rw [State.readByte_writeByte hw, if_pos (hmirror.trans ha.symm)]
  exact ⟨(hread haddr).trans (hread hmirror).symm, fun v => ⟨hwrite haddr v, hwrite hmirror v⟩⟩

/-- Settles O6: one lemma about `locate` for each thing an address can translate to. -/
theorem byteAccessIsTranslateThenAccess : Obligations.ByteAccessIsTranslateThenAccess := by
  refine ⟨fun s addr v => ⟨fun h => ?_, fun off h hlen => ?_, fun region off h hlen => ?_⟩, fun addr off h => ?_,
    fun s addr v hlo hhi hlen => ?_, fun s addr e hrom h => (State.readByte_error_of_romBacked hrom h).2⟩
  · exact State.byteAccess_error (State.locate_of_unmapped h) v
  · exact State.byteAccess_error (State.locate_of_beyond_image h hlen) v
  · have hw := State.writeByte_of_mapped h hlen v
    exact ⟨State.readByte_of_mapped h hlen, _, hw, fun k => s.buffer_setBuffer (region, off) k v,
      State.writeByte_frame hw⟩
  · obtain ⟨hpos, hrom, -⟩ := translateAddr_bounds h
    exact ⟨hpos, (hrom rfl).2⟩
  · exact State.byteAccess_error (State.locate_of_beyond_image (translateAddr_rom hlo hhi) hlen) v

/-- Fetch and Decode of an opcode that is decoded from its first byte alone. -/
theorem fetchDecode_of_readByte {p : Profile} {s : State} {op : Byte} (h : s.readByte s.pc = .ok op)
    (hsecond : p.readsSecond op = false) : fetchDecode p s = .decoded (decode p op 0#8) := by
  simp [fetchDecode, State.secondByte, h, hsecond]

/-- Settles O7: every read of the three kinds is a byte read of `t`, which `State.readByte_writeByte` gives. -/
theorem writtenByteIsReadAndFetched : Obligations.WrittenByteIsReadAndFetched := by
  intro s t addr v hw
  have hread : ∀ k, translateAddr k = translateAddr addr → t.readByte k = .ok v := by
    intro k hk
    rw [State.readByte_writeByte hw, if_pos hk]
  refine ⟨fun k hk => ⟨hread k hk, getOperand_absByte_ok (hread k hk)⟩, fun k hk => ?_, fun p k hk hsecond => ?_⟩
  · rw [State.readByte_writeByte hw, if_neg hk]
  · exact fetchDecode_of_readByte (hread k hk) hsecond

/-! ## Words -/

section Words

variable {s : State} {addr : Addr} {lo hi : Byte} {v : Word} {e : Trap}

theorem State.readWord_ok (hlo : s.readByte addr = .ok lo) (hhi : s.readByte (addr + 1#16) = .ok hi) :
    s.readWord addr = .ok (composeWord hi lo) := by
  simp [State.readWord, hlo, hhi]

theorem State.readWord_error_low (h : s.readByte addr = .error e) : s.readWord addr = .error e := by
  simp [State.readWord, h]

theorem State.readWord_error_high (hlo : s.readByte addr = .ok lo) (h : s.readByte (addr + 1#16) = .error e) :
    s.readWord addr = .error e := by
  simp [State.readWord, hlo, h]

/-- With the ROM window backed, a word read whose first byte is mapped fails exactly when its second is not (R47). -/
theorem State.readWord_error_iff_of_romBacked (hrom : RomBacked s) (hlo : s.readByte addr = .ok lo) :
    (∃ e, s.readWord addr = .error e) ↔ translateAddr (addr + 1#16) = none := by
  constructor
  · rintro ⟨e, he⟩
    rcases hhi : s.readByte (addr + 1#16) with e' | hi
    · exact (State.readByte_error_of_romBacked hrom hhi).1
    · rw [State.readWord_ok hlo hhi] at he
      cases he
  · intro h
    exact ⟨_, State.readWord_error_high hlo (State.readByte_error.mpr (State.locate_of_unmapped h))⟩

theorem State.writeWord_done {t u : State} (hhi : s.writeByte (addr + 1#16) (highByte v) = .ok t)
    (hlo : t.writeByte addr (lowByte v) = .ok u) : s.writeWord addr v = .done u := by
  simp [State.writeWord, hhi, hlo]

theorem State.writeWord_raised_high (h : s.writeByte (addr + 1#16) (highByte v) = .error e) :
    s.writeWord addr v = .raised e s := by
  simp [State.writeWord, h]

theorem State.writeWord_raised_low {t : State} (hhi : s.writeByte (addr + 1#16) (highByte v) = .ok t)
    (h : t.writeByte addr (lowByte v) = .error e) : s.writeWord addr v = .raised e t := by
  simp [State.writeWord, hhi, h]

/-- A write moves no address: where an access landed before it, one lands after it. -/
theorem State.writeByte_locate {t : State} {other : Addr} {b : Byte} (hw : s.writeByte other b = .ok t) (a : Addr) :
    t.locate a = s.locate a := by
  obtain ⟨loc, -, rfl⟩ := State.writeByte_ok.mp hw
  exact s.setBuffer_locate loc b a

end Words

/-- Settles O8: the three ways a word read can go; where it straddles the end of a window is arithmetic. -/
theorem wordReadIsLittleEndian : Obligations.WordReadIsLittleEndian := by
  refine fun s addr => ⟨fun lo hi hlo hhi => ⟨_, State.readWord_ok hlo hhi, ?_⟩,
    fun e h => State.readWord_error_low h, fun lo e hlo h => State.readWord_error_high hlo h,
    fun lo hrom hlo => ?_⟩
  · rw [composeWord_toNat, Nat.mul_comm]
  · rw [State.readWord_error_iff_of_romBacked hrom hlo,
      translateAddr_succ_eq_none_iff (State.translateAddr_ne_none_of_readByte_ok hlo)]

/-- A word write whose bytes are both mapped: it completes, and the state after it reads as the two byte writes one
after the other, the low byte's last (R48). -/
theorem State.writeWord_of_readable {s : State} {addr : Addr} {lo hi : Byte} (hlo : s.readByte addr = .ok lo)
    (hhi : s.readByte (addr + 1#16) = .ok hi) (v : Word) :
    ∃ t, s.writeWord addr v = .done t ∧ ∀ k, t.readByte k =
      if translateAddr k = translateAddr addr then .ok (lowByte v)
      else if translateAddr k = translateAddr (addr + 1#16) then .ok (highByte v) else s.readByte k := by
  obtain ⟨_, -, hw1⟩ := State.writeByte_of_readByte (highByte v) hhi
  obtain ⟨loc, hloc, -⟩ := State.readByte_ok.mp hlo
  have hw2 := (State.writeByte_ok (v := lowByte v)).mpr ⟨loc, (State.writeByte_locate hw1 addr).trans hloc, rfl⟩
  exact ⟨_, State.writeWord_done hw1 hw2, fun k => by rw [State.readByte_writeByte hw2, State.readByte_writeByte hw1]⟩

/-- Settles O9: the completed write by `State.writeWord_of_readable`, where `translateAddr_succ_ne` keeps the two bytes
apart; the failed ones from the byte write that fails; the frame is `State.writeWord_frame`. -/
theorem wordWriteHighByteFirstNoRollback : Obligations.WordWriteHighByteFirstNoRollback := by
  refine fun s addr v => ⟨fun lo hi hlo hhi => ?_, fun e he => ?_, fun hi e hhi he => ?_,
    fun t h => State.writeWord_frame h⟩
  · obtain ⟨t, hw, hread⟩ := State.writeWord_of_readable hlo hhi v
    have hne : translateAddr (addr + 1#16) ≠ translateAddr addr := by
      obtain ⟨loc, hl, -⟩ := State.readByte_ok.mp hlo
      have htr := State.translate_of_locate hl
      rw [htr]
      exact translateAddr_succ_ne htr
    have hlow : t.readByte addr = .ok (lowByte v) := by rw [hread, if_pos rfl]
    have hhigh : t.readByte (addr + 1#16) = .ok (highByte v) := by rw [hread, if_neg hne, if_pos rfl]
    refine ⟨t, hw, ?_, fun k hk hk' => by rw [hread, if_neg hk, if_neg hk']⟩
    rw [State.readWord_ok hlow hhigh, composeWord_high_low]
  · exact State.writeWord_raised_high (State.writeByte_error_iff_readByte.mpr he)
  · obtain ⟨_, -, hw⟩ := State.writeByte_of_readByte (highByte v) hhi
    refine ⟨_, hw, State.writeWord_raised_low hw ?_⟩
    rwa [State.writeByte_error, State.writeByte_locate hw, ← State.readByte_error]

/-! ## XMEM (R56) -/

/-- What an XMEM access can leave: the state as it was, or as a byte or word write left it, completed or not. -/
theorem State.xmem_state_cases (s : State) (q : XmemRequest) :
    (s.xmem q).2 = s ∨ (∃ addr v, s.writeByte addr v = .ok (s.xmem q).2) ∨
    (∃ addr v, s.writeWord addr v = .done (s.xmem q).2 ∨ ∃ e, s.writeWord addr v = .raised e (s.xmem q).2) := by
  cases q with
  | getByte addr =>
    simp only [State.xmem]
    split <;> exact .inl rfl
  | getWord addr =>
    simp only [State.xmem]
    split <;> exact .inl rfl
  | setByte addr v =>
    simp only [State.xmem]
    split
    · exact .inr (.inl ⟨addr, v, ‹_›⟩)
    · exact .inl rfl
  | setWord addr v =>
    simp only [State.xmem]
    split
    · exact .inr (.inr ⟨addr, v, .inl ‹_›⟩)
    · exact .inr (.inr ⟨addr, v, .inr ⟨_, ‹_›⟩⟩)

/-- An XMEM access changes the buffers alone. -/
theorem State.xmem_frame (s : State) (q : XmemRequest) :
    (∀ r, (s.xmem q).2.r8 r = s.r8 r) ∧ (s.xmem q).2.z = s.z ∧ (s.xmem q).2.cy = s.cy ∧ (s.xmem q).2.pc = s.pc ∧
      (s.xmem q).2.romLen = s.romLen ∧ (s.xmem q).2.status = s.status ∧ (s.xmem q).2.haltRec = s.haltRec := by
  rcases s.xmem_state_cases q with h | ⟨addr, v, h⟩ | ⟨addr, v, h⟩
  · simp [h]
  · exact State.writeByte_frame h
  · exact State.writeWord_frame h

/-- Settles O10: the frame by `State.xmem_frame`; each answer is what `State.xmem` does with the primitive's. -/
theorem xmemServesThePrimitivesAndNeverHalts : Obligations.XmemServesThePrimitivesAndNeverHalts := by
  refine fun s => ⟨fun q => ?_, fun addr v h => ?_, fun addr e h => ⟨?_, fun v => ?_⟩, fun addr v h => ?_,
    fun addr e h => ?_, fun addr v t h => ?_, fun addr v t h => ?_, fun addr v e t h => ?_⟩
  · obtain ⟨hr8, hz, hcy, hpc, hlen, hstatus, hrec⟩ := s.xmem_frame q
    exact ⟨hstatus, hrec, hpc, hz, hcy, hlen, hr8⟩
  · simp [State.xmem, h]
  · simp [State.xmem, h]
  · have hw : s.writeByte addr v = .error e := State.writeByte_error_iff_readByte.mpr h
    simp [State.xmem, hw]
  all_goals simp [State.xmem, h]

/-! ## The rows that store (R61) -/

/-- `t` reads as `s` does at every address that selects another byte than `addr`. -/
def State.AgreesOff (addr : Addr) (s t : State) : Prop :=
  ∀ k, translateAddr k ≠ translateAddr addr → t.readByte k = s.readByte k

/-- In `s`, writing the operand stores at `addr` or not at all. -/
def StoresOnlyAt (addr : Addr) (s : State) : Operand → Prop
  | .reg _ => True
  | .indByte n => s.readReg n = addr
  | _ => False

/-- A register write stores nowhere. -/
theorem storesOnlyAt_reg (addr : Addr) (s : State) (n : RegName) : StoresOnlyAt addr s (.reg n) := trivial

section AgreesOff

variable {addr : Addr} {s t u : State} {op : Operand} {r : Result}

theorem State.AgreesOff.refl (addr : Addr) (s : State) : State.AgreesOff addr s s := fun _ _ => rfl

theorem State.AgreesOff.trans (hst : State.AgreesOff addr s t) (htu : State.AgreesOff addr t u) :
    State.AgreesOff addr s u :=
  fun k hk => (htu k hk).trans (hst k hk)

theorem setOperand_agreesOff (h : StoresOnlyAt addr s op) (v : Word) :
    State.AgreesOff addr s (setOperand op v s).state := by
  cases op with
  | reg n => exact fun k _ => s.writeReg_readByte n v k
  | indByte n =>
    have haddr : s.readReg n = addr := h
    rw [setOperand, haddr]
    rcases hw : s.writeByte addr (lowByte v) with e | t
    · exact .refl addr s
    · intro k hk
      exact (State.readByte_writeByte hw k).trans (if_neg hk)
  | _ => exact h.elim

theorem withOperand_agreesOff {k : Word → Result} (src : Operand) (hk : ∀ v, State.AgreesOff addr s (k v).state) :
    State.AgreesOff addr s (withOperand src s k).state := by
  rcases withOperand_cases src s k with ⟨v, -, h⟩ | ⟨e, -, h⟩ <;> rw [h]
  · exact hk v
  · exact .refl addr s

theorem Result.andThen_agreesOff {k : State → Result} (h : State.AgreesOff addr s r.state)
    (hk : ∀ t, State.AgreesOff addr t (k t).state) : State.AgreesOff addr s (r.andThen k).state := by
  cases r with
  | done t => exact h.trans (hk t)
  | raised e t => exact h

theorem runLoad_agreesOff (h : StoresOnlyAt addr s op) (src : Operand) :
    State.AgreesOff addr s (runLoad op src s).state :=
  withOperand_agreesOff src fun v => setOperand_agreesOff h v

theorem unary_agreesOff (h : StoresOnlyAt addr s op) (f : Word → Word) :
    State.AgreesOff addr s (unary f op s).state :=
  withOperand_agreesOff op fun v => setOperand_agreesOff h (f v)

theorem runDec_agreesOff (h : StoresOnlyAt addr s op) : State.AgreesOff addr s (runDec op s).state :=
  withOperand_agreesOff op fun v =>
    Result.andThen_agreesOff (setOperand_agreesOff h (v - 1#16)) fun t k _ => t.setZ_readByte _ k

end AgreesOff

section StoringRows

variable {f : Form} {s : State} {addr : Addr}

/-- Execute of a storing form stores at the form's address alone, completed or raised. -/
theorem execute_record_agreesOff (h : f.storeAddr s = some addr) (pc0 : Addr) (n : Nat) :
    State.AgreesOff addr (s.advance n) (execute (f.record pc0) (s.advance n)).state := by
  have hpair : ∀ p, s.readReg (.pair p) = addr → StoresOnlyAt addr (s.advance n) (.indByte (.pair p)) :=
    fun p hp => (s.advance_readReg n _).trans hp
  cases f <;> simp only [Form.storeAddr, Option.some.injEq, reduceCtorEq] at h <;> simp only [Form.record, execute]
  case ldIndReg | ldIndImm | ldIndBCA | ldIndDEA => exact runLoad_agreesOff (hpair _ h) _
  case incInd | slaInd => exact unary_agreesOff (hpair _ h) _
  case decInd => exact runDec_agreesOff (hpair _ h)
  case ldHLIncA =>
    simp only [executeSeq_cons, executeSeq_nil, execute]
    exact Result.andThen_agreesOff (runLoad_agreesOff (hpair _ h) _) fun t =>
      Result.andThen_agreesOff (unary_agreesOff (storesOnlyAt_reg addr t _) _) fun u => .refl addr u
  case ldHLDecA =>
    simp only [executeSeq_cons, executeSeq_nil, execute]
    exact Result.andThen_agreesOff (runLoad_agreesOff (hpair _ h) _) fun t =>
      Result.andThen_agreesOff (runDec_agreesOff (storesOnlyAt_reg addr t _)) fun u => .refl addr u

/-- A storing row stores at its form's address alone: Advance-PC and halt entry touch no memory. -/
theorem exec_agreesOff {i : Instr} {t : State} (hstore : i.form.storeAddr s = some addr) (h : exec i s = .next t) :
    State.AgreesOff addr s t := by
  have hrun := execute_record_agreesOff hstore s.pc i.form.length
  rw [exec_eq_runForm, runForm, runRecord] at h
  rcases hr : execute (i.form.record s.pc) (s.advance i.form.length) with u | ⟨e, u⟩ <;> rw [hr] at h hrun <;> cases h
  · exact hrun
  · exact hrun

end StoringRows

/-- Settles O58: the frame of the row, `exec_agreesOff` for the memory, and STATUS and HALTREC because the row completes
where its addresses can be read. -/
theorem frameOfRowsThatStore : Obligations.FrameOfRowsThatStore := by
  intro i s t addr hstore h
  have hframe := exec_frame h
  refine ⟨fun r hr => (hframe.r8 r hr).trans (s.advance_r8 _ r), hframe.z, hframe.cy, hframe.romLen,
    exec_agreesOff hstore h, fun hread => ?_⟩
  have hkeeps := exec_keeps_of_readable h hread
  exact ⟨hkeeps.status, hkeeps.haltRec⟩

end Sys2Proof.Machine

/-! Proofs of the family 30_encoding.md: the Decoder is total (R76, R80), the minimal opcode table (R84), and an
instruction encoded at pc runs with the operand that was encoded (R71, R73, R105). -/

namespace Sys2Proof

/-! ## What the Decoder answers, from the row its tables hold (R76, R78, R79) -/

section DecodeEquations

variable {op sub : Byte} {i : Instr}

theorem decode_of_oneByteRow_some (hop : op ≠ cbPrefix) (h : oneByteRow op = some i) (sub : Byte) :
    decode .extended op sub = .row i := by
  simp [decode, hop, h]

theorem decode_of_oneByteRow_none (hop : op ≠ cbPrefix) (h : oneByteRow op = none) (sub : Byte) :
    decode .extended op sub = .undefined op none := by
  simp [decode, hop, h]

theorem decode_of_cbRow_some (h : cbRow sub = some i) : decode .extended cbPrefix sub = .row i := by
  simp [decode, h]

theorem decode_of_cbRow_none (h : cbRow sub = none) :
    decode .extended cbPrefix sub = .undefined cbPrefix (some sub) := by
  simp [decode, h]

/-- A byte outside the three rows of R84. -/
theorem decode_minimal_undefined (hnop : op ≠ 0x00#8) (hxor : op ≠ 0xAF#8) (hjp : op ≠ 0xC3#8) (sub : Byte) :
    decode .minimal op sub = .undefined op none := by
  simp [decode, minimalRow, hnop, hxor, hjp]

/-- The second byte does not count where the profile does not read it. -/
theorem decode_eq_of_not_readsSecond {p : Profile} (h : p.readsSecond op = false) (sub other : Byte) :
    decode p op sub = decode p op other := by
  cases p with
  | minimal => rfl
  | extended =>
    have hop : op ≠ cbPrefix := by simpa [Profile.readsSecond] using h
    simp [decode, hop]

end DecodeEquations

/-! ## Which bytes have a row (R79, R80) -/

/-- The dashes of R78's grid are the bytes of R80's table and 0xCB. -/
theorem oneByteRow_eq_none_iff :
    ∀ op : Byte, oneByteRow op = none ↔ op = cbPrefix ∨ op.toNat ∈ undefinedBytes := by decide

theorem cbPrefix_not_mem_undefinedBytes : cbPrefix.toNat ∉ undefinedBytes := by decide

theorem cbRow_eq_none_iff (sub : Byte) : cbRow sub = none ↔ ¬ (0x20 ≤ sub.toNat ∧ sub.toNat ≤ 0x27) := by
  have hlen : cbMap.length = 8 := rfl
  unfold cbRow
  split_ifs with h
  · rw [List.getElem?_eq_none_iff, hlen]
    omega
  · simp only [true_iff]
    omega

/-- Settles O44: by what the opcode map and the CB map hold for the two bytes. -/
theorem decodingIsTotal : Obligations.DecodingIsTotal := by
  refine ⟨by decide, by decide, fun op sub => ?_⟩
  by_cases hop : op = cbPrefix
  · subst hop
    refine .inr (.inl ⟨rfl, cbPrefix_not_mem_undefinedBytes, ?_⟩)
    rcases hrow : cbRow sub with _ | i
    · rw [if_neg ((cbRow_eq_none_iff sub).mp hrow)]
      exact decode_of_cbRow_none hrow
    · have hsub : 0x20 ≤ sub.toNat ∧ sub.toNat ≤ 0x27 := by
        by_contra h
        simp [(cbRow_eq_none_iff sub).mpr h] at hrow
      rw [if_pos hsub]
      exact ⟨i, decode_of_cbRow_some hrow⟩
  · rcases hrow : oneByteRow op with _ | i
    · have hmem := ((oneByteRow_eq_none_iff op).mp hrow).resolve_left hop
      exact .inl ⟨hmem, hop, decode_of_oneByteRow_none hop hrow sub⟩
    · have hmem : op.toNat ∉ undefinedBytes := fun h => by
        simp [(oneByteRow_eq_none_iff op).mpr (.inr h)] at hrow
      exact .inr (.inr ⟨hop, hmem, i, decode_of_oneByteRow_some hop hrow⟩)

/-- Settles O45: the three rows are written in the table, and `decode_minimal_row` finds them in the extended one. -/
theorem minimalProfileHasThreeRows : Obligations.MinimalProfileHasThreeRows := by
  refine fun op sub => ⟨rfl, ?nop, ?xorA, ?jp, fun hnop hxor hjp => ?undefined, fun i => decode_minimal_row⟩
  case undefined =>
    rw [decode_minimal_undefined hnop hxor hjp]
    exact ⟨rfl, rfl⟩
  all_goals
    rintro rfl
    rfl

end Sys2Proof

namespace Sys2Proof.Machine

/-! ## The bytes of an encoding (R71, R72) -/

theorem encode_opcode (i : Instr) (imm : Word) : (encode i imm)[0]? = some i.form.opcode := by
  rcases h : i.form.format <;> simp [encode, Form.opcodeBytes, h]

theorem encode_subOpcode {i : Instr} (h : i.form.format = .fcb) (imm : Word) :
    (encode i imm)[1]? = some i.form.subOpcode := by
  simp [encode, Form.opcodeBytes, h]

/-- Every format with an operand has its low byte next to the opcode. -/
theorem encode_operand_low {i : Instr} (h : i.form.format = .f2i ∨ i.form.format = .f2r ∨ i.form.format = .f3)
    (imm : Word) : (encode i imm)[1]? = some (lowByte imm) := by
  rcases h with h | h | h <;> simp [encode, Form.opcodeBytes, Format.operandBytes, h, lowByte]

theorem encode_operand_high {i : Instr} (h : i.form.format = .f3) (imm : Word) :
    (encode i imm)[2]? = some (highByte imm) := by
  simp [encode, Form.opcodeBytes, Format.operandBytes, h, highByte]

/-! ## A step over bytes that decode to a row (40_step_operands.md R107) -/

theorem fetchDecode_of_reads {p : Profile} {s : State} {op sub : Byte} (hop : s.readByte s.pc = .ok op)
    (hsub : p.readsSecond op = true → s.readByte (s.pc + 1#16) = .ok sub) :
    fetchDecode p s = .decoded (decode p op sub) := by
  cases hsecond : p.readsSecond op with
  | false => rw [fetchDecode_of_readByte hop hsecond, decode_eq_of_not_readsSecond hsecond]
  | true => simp [fetchDecode, State.secondByte, hop, hsecond, hsub hsecond]

theorem stepWith_of_row {p : Profile} {s : State} {op sub : Byte} {i : Instr} (hrun : s.status = .running)
    (hop : s.readByte s.pc = .ok op) (hsub : p.readsSecond op = true → s.readByte (s.pc + 1#16) = .ok sub)
    (hrow : decode p op sub = .row i) : stepWith p s = exec i s := by
  simp [stepWith, hrun, fetchDecode_of_reads hop hsub, hrow]

theorem getOperand_rel_ok {addr : Addr} {s : State} {v : Byte} (h : s.readByte addr = .ok v) :
    getOperand (.rel addr) s = .ok (s.pc + sext16 v) := by
  simp [getOperand, getRel, h]

/-! ## An encoded instruction at pc (R73, R105) -/

section Encoded

variable {i : Instr} {imm : Word} {s : State}
  (hbytes : ∀ k (h : k < (encode i imm).length), s.readByte (s.pc + BitVec.ofNat 16 k) = .ok (encode i imm)[k])

include hbytes

theorem readByte_of_encode {k : Nat} {b : Byte} (hk : (encode i imm)[k]? = some b) :
    s.readByte (s.pc + BitVec.ofNat 16 k) = .ok b := by
  obtain ⟨hlt, rfl⟩ := List.getElem?_eq_some_iff.mp hk
  exact hbytes k hlt

theorem step_of_encode (hrun : s.status = .running) : step s = exec i s := by
  have hop : s.readByte s.pc = .ok i.form.opcode := by
    simpa using readByte_of_encode hbytes (encode_opcode i imm)
  refine stepWith_of_row hrun hop (fun hsecond => ?_) (decode_row i i.form.subOpcode fun _ => rfl)
  obtain ⟨-, hprefix⟩ := (Profile.readsSecond_iff _ _).mp hsecond
  exact readByte_of_encode hbytes (encode_subOpcode (i.form.opcode_prefix_iff.mp hprefix) imm)

end Encoded

/-- Settles O47: the step by `step_of_encode`, each operand by the reads of its bytes, which Advance-PC keeps. -/
theorem encodedInstructionRunsWithItsOperand : Obligations.EncodedInstructionRunsWithItsOperand := by
  intro i imm s hrun hbytes
  have hlow (hf : i.form.format = .f2i ∨ i.form.format = .f2r ∨ i.form.format = .f3) (n : Nat) :
      (s.advance n).readByte (s.pc + 1#16) = .ok (lowByte imm) := by
    simpa using readByte_of_encode hbytes (encode_operand_low hf imm)
  refine ⟨step_of_encode hbytes hrun, fun hf => getOperand_absByte_ok (hlow (.inl hf) 2),
    fun hf => getOperand_rel_ok (hlow (.inr (.inl hf)) 2), fun hf => ?_⟩
  have hhigh : (s.advance 3).readByte (s.pc + 1#16 + 1#16) = .ok (highByte imm) := by
    simpa [addr_succ_succ] using readByte_of_encode hbytes (encode_operand_high hf imm)
  calc
    getOperand (.absWord (s.pc + 1#16)) (s.advance 3) = .ok (composeWord (highByte imm) (lowByte imm)) :=
      State.readWord_ok (hlow (.inr (.inr hf)) 3) hhigh
    _ = .ok imm := by rw [composeWord_high_low]

end Sys2Proof.Machine

/-! Proofs of the family 40_step_operands.md: what an operand keeps of a value (R110, R118), the operands that delegate,
displace or test a flag (R114 to R118), a failed read in Fetch or Decode (R101, R103), and the step over a row (R107). -/

namespace Sys2Proof.Machine

/-! ## Values as numbers -/

theorem boolWord_toNat (b : Bool) : (boolWord b).toNat = if b then 1 else 0 := by cases b <;> rfl

theorem boolWord_toNat_lt (b : Bool) : (boolWord b).toNat < 2 ^ 1 := by cases b <;> decide

/-- Adding a sign-extended byte is adding its signed value modulo 2^16 (R116). -/
theorem toNat_add_sext16 (a : Addr) (d : Byte) :
    ((a + sext16 d).toNat : Int) = ((a.toNat : Int) + d.toInt) % 65536 := by
  have hd : (sext16 d).toNat = (d.toInt % 65536).toNat := BitVec.toNat_ofInt d.toInt
  rw [BitVec.toNat_add, hd]
  omega

/-! ## What a read answers -/

/-- A byte read as an operand value has at most 8 bits (R111). -/
theorem getAbsByte_toNat_lt {addr : Addr} {s : State} {v : Word} (h : getAbsByte addr s = .ok v) : v.toNat < 2 ^ 8 := by
  unfold getAbsByte at h
  split at h <;> cases h
  rw [zext16_toNat]
  exact BitVec.isLt _

/-- A value read through an operand has no more than the operand's width in bits (R110). -/
theorem getOperand_toNat_lt {o : Operand} {s : State} {v : Word} (h : getOperand o s = .ok v) :
    v.toNat < 2 ^ operandWidth o := by
  cases o with
  | absByte addr => exact getAbsByte_toNat_lt h
  | indByte n => exact getAbsByte_toNat_lt h
  | absWord addr => exact v.isLt
  | indWord n => exact v.isLt
  | rel addr => exact v.isLt
  | reg n =>
    cases n with
    | r8 r =>
      cases h
      exact (zext16_toNat _).trans_lt (s.r8 r).isLt
    | pair p => exact v.isLt
  | flag f =>
    cases h
    exact boolWord_toNat_lt _
  | notFlag f =>
    cases h
    exact boolWord_toNat_lt _

/-! ## A read after a completed write -/

section WriteThenRead

variable {s t : State} {addr : Addr} {v : Word} {o : Operand}

theorem liftWrite_done_iff {r : Except Trap State} : liftWrite s r = .done t ↔ r = .ok t := by
  cases r <;> simp [liftWrite]

/-- Register names read the registers alone. -/
theorem State.readReg_congr (h : ∀ r, t.r8 r = s.r8 r) (n : RegName) : t.readReg n = s.readReg n := by
  cases n <;> simp only [State.readReg, State.pair, h]

/-- A completed write of a byte operand moves no register, and the operand then holds the byte (R111). -/
theorem setOperand_absByte_done (h : setOperand (.absByte addr) v s = .done t) :
    (∀ r, t.r8 r = s.r8 r) ∧ getOperand (.absByte addr) t = .ok (zext16 (lowByte v)) := by
  have hw : s.writeByte addr (lowByte v) = .ok t := liftWrite_done_iff.mp h
  have hread : t.readByte addr = .ok (lowByte v) := by rw [State.readByte_writeByte hw, if_pos rfl]
  exact ⟨(State.writeByte_frame hw).1, getOperand_absByte_ok hread⟩

/-- A completed write of a word operand moves no register, and the operand then holds the word: its two bytes lie apart
(R112). -/
theorem setOperand_absWord_done (h : setOperand (.absWord addr) v s = .done t) :
    (∀ r, t.r8 r = s.r8 r) ∧ getOperand (.absWord addr) t = .ok v := by
  rw [setOperand] at h
  refine ⟨(State.writeWord_frame (.inl h)).1, ?_⟩
  rcases s.writeWord_cases addr v with ⟨s1, s2, hhi, hlo, hw⟩ | ⟨e, -, hw⟩ | ⟨s1, e, -, -, hw⟩ <;> rw [hw] at h <;>
    cases h
  have hne : translateAddr (addr + 1#16) ≠ translateAddr addr := by
    obtain ⟨loc, hloc, -⟩ := State.writeByte_ok.mp hlo
    have htr := State.translate_of_locate hloc
    rw [htr]
    exact translateAddr_succ_ne htr
  have hlow : t.readByte addr = .ok (lowByte v) := by rw [State.readByte_writeByte hlo, if_pos rfl]
  have hhigh : t.readByte (addr + 1#16) = .ok (highByte v) := by
    rw [State.readByte_writeByte hlo, if_neg hne, State.readByte_writeByte hhi, if_pos rfl]
  rw [getOperand, State.readWord_ok hlow hhigh, composeWord_high_low]

theorem State.setFlag_flag_same {f : FlagName} {b : Bool} (h : s.setFlag f b = .ok t) : t.flag f = b := by
  cases f <;> cases h <;> rfl

/-- In `t` the operand holds what it keeps of `v` (R110, R118): the low bits, or of a flag operand whether `v` is nonzero. -/
def OperandKeeps (o : Operand) (v : Word) (t : State) : Prop :=
  ∃ w, getOperand o t = .ok w ∧
    w.toNat = if operandWidth o = 1 then (if v = 0#16 then 0 else 1) else v.toNat % 2 ^ operandWidth o

theorem operandKeeps_of_byte (hwidth : operandWidth o = 8) (h : getOperand o t = .ok (zext16 (lowByte v))) :
    OperandKeeps o v t := by
  refine ⟨_, h, ?_⟩
  rw [hwidth, if_neg (by decide), zext16_toNat, lowByte_toNat]
  rfl

theorem operandKeeps_of_word (hwidth : operandWidth o = 16) (h : getOperand o t = .ok v) : OperandKeeps o v t := by
  refine ⟨_, h, ?_⟩
  rw [hwidth, if_neg (by decide), Nat.mod_eq_of_lt v.isLt]

theorem operandKeeps_of_bool (hwidth : operandWidth o = 1) (h : getOperand o t = .ok (boolWord (v != 0#16))) :
    OperandKeeps o v t := by
  refine ⟨_, h, ?_⟩
  rw [hwidth, if_pos rfl, boolWord_toNat]
  by_cases hv : v = 0#16 <;> simp [hv]

/-- Where a write through an operand completes, the operand keeps the value to its width (R110, R118). -/
theorem operandKeeps_of_setOperand_done (h : setOperand o v s = .done t) : OperandKeeps o v t := by
  cases o with
  | absByte addr => exact operandKeeps_of_byte rfl (setOperand_absByte_done h).2
  | absWord addr => exact operandKeeps_of_word rfl (setOperand_absWord_done h).2
  | indByte n =>
    obtain ⟨hregs, hread⟩ := setOperand_absByte_done (addr := s.readReg n) h
    rw [← State.readReg_congr hregs n] at hread
    exact operandKeeps_of_byte rfl hread
  | indWord n =>
    obtain ⟨hregs, hread⟩ := setOperand_absWord_done (addr := s.readReg n) h
    rw [← State.readReg_congr hregs n] at hread
    exact operandKeeps_of_word rfl hread
  | reg n =>
    cases h
    cases n with
    | r8 r => exact operandKeeps_of_byte rfl (by simp [State.readReg, State.writeReg])
    | pair p => exact operandKeeps_of_word rfl (by simp [State.readReg, State.writeReg, State.setPair_pair_same])
  | rel addr => cases h
  | flag f =>
    have hflag := State.setFlag_flag_same (liftWrite_done_iff.mp h)
    exact operandKeeps_of_bool rfl (by rw [getOperand, hflag])
  | notFlag f =>
    have hflag := State.setFlag_flag_same (liftWrite_done_iff.mp h)
    exact operandKeeps_of_bool rfl (by rw [getOperand, hflag, bne])

end WriteThenRead

/-- Settles O13: `getOperand_toNat_lt` for the reads, `operandKeeps_of_setOperand_done` for the writes. -/
theorem operandSetThenGetKeepsItsWidth : Obligations.OperandSetThenGetKeepsItsWidth :=
  ⟨fun _ _ _ => getOperand_toNat_lt, fun _ _ _ _ => operandKeeps_of_setOperand_done⟩

/-! ## Indirect, relative and flag operands -/

theorem getOperand_rel_error {addr : Addr} {s : State} {e : Trap} (h : s.readByte addr = .error e) :
    getOperand (.rel addr) s = .error e := by
  simp [getOperand, getRel, h]

theorem getOperand_notFlag (f : FlagName) (s : State) :
    getOperand (.notFlag f) s = .ok (if s.flag f then 0#16 else 1#16) := by
  rw [getOperand]
  cases s.flag f <;> rfl

/-- Settles O14: the indirect operands and the flag writes are the definition's own arms; the relative target is
`toNat_add_sext16`. -/
theorem indirectRelativeAndFlagOperands : Obligations.IndirectRelativeAndFlagOperands := by
  refine ⟨fun s => ⟨fun n => ⟨rfl, fun v => rfl⟩, fun n => ⟨rfl, fun v => rfl⟩, fun addr d hd => ?rel,
    fun addr e he => getOperand_rel_error he, fun addr v => rfl⟩,
    fun s => ⟨fun f => ⟨rfl, getOperand_notFlag f s⟩, fun v => ⟨rfl, rfl, rfl, rfl, rfl, rfl⟩⟩⟩
  case rel => exact ⟨_, getOperand_rel_ok hd, toNat_add_sext16 s.pc d⟩

/-! ## A failed read in Fetch or Decode (R101, R103) -/

section FailedReads

variable {p : Profile} {s : State} {op : Byte} {e : Trap}

theorem Trap.isAccessAt.faultAddr_eq {addr : Addr} (h : e.isAccessAt addr) : e.faultAddr = some addr := by
  rcases h with rfl | rfl <;> rfl

theorem fetchDecode_of_opcode_error (h : s.readByte s.pc = .error e) :
    fetchDecode p s = .halted (s.takeHalt .fetch s.pc none e) := by
  simp [fetchDecode, h]

theorem fetchDecode_of_second_error (hop : s.readByte s.pc = .ok op) (hsecond : p.readsSecond op = true)
    (h : s.readByte (s.pc + 1#16) = .error e) :
    fetchDecode p s = .halted (s.takeHalt .decode s.pc (some op) e) := by
  simp [fetchDecode, State.secondByte, hop, hsecond, h]

theorem stepWith_of_fetchDecode_halted {t : State} (hrun : s.status = .running) (h : fetchDecode p s = .halted t) :
    stepWith p s = .next t := by
  simp [stepWith, hrun, h]

end FailedReads

/-- Settles O48: the trap of a failed byte read names the byte's address, and the step ends where Fetch or Decode
halts. -/
theorem fetchAndDecodeFaultsHalt : Obligations.FetchAndDecodeFaultsHalt := by
  refine ⟨fun p s e hrun h => ⟨(State.readByte_error_isAccessAt h).faultAddr_eq, ?_⟩,
    fun s e hrun hop h => ⟨(State.readByte_error_isAccessAt h).faultAddr_eq, ?_⟩⟩
  · exact stepWith_of_fetchDecode_halted hrun (fetchDecode_of_opcode_error h)
  · exact stepWith_of_fetchDecode_halted hrun (fetchDecode_of_second_error hop rfl h)

/-! ## The step over a row (R107) -/

/-- Settles O46: `stepWith_of_row`, the extended table being the model's default, and `exec_eq_runForm`. -/
theorem stepRunsTheDecodedRow : Obligations.StepRunsTheDecodedRow :=
  ⟨fun _ _ _ _ _ => stepWith_of_row, fun _ => rfl, exec_eq_runForm⟩

end Sys2Proof.Machine

/-! Proofs of the family 41_load.md: the kinds on any operands (R130, R161 to R165) and the load family (R131 to R144). -/

namespace Sys2Proof.Machine

/-! ## The kinds on any operands -/

section Kinds

variable {op op1 op2 : Operand} {s t : State} {v w : Word} {e : Trap}

@[simp] theorem execute_load (dst src : Operand) (s : State) :
    execute (.load dst src) s = withOperand src s fun v => setOperand dst v s := by
  rw [execute, runLoad]

theorem execute_inc (op : Operand) (s : State) :
    execute (.inc op) s = withOperand op s fun v => setOperand op (v + 1#16) s := by
  rw [execute, unary]

theorem execute_shl (op : Operand) (s : State) :
    execute (.shl op) s = withOperand op s fun v => setOperand op (v <<< 1) s := by
  rw [execute, unary]

theorem execute_dec (op : Operand) (s : State) :
    execute (.dec op) s = withOperand op s fun v =>
      (setOperand op (v - 1#16) s).andThen fun t => .done (t.setZ (decZero (operandWidth op) (v - 1#16))) := by
  rw [execute, runDec]

@[simp] theorem execute_stacked (seq : List Record) (s : State) : execute (.stacked seq) s = executeSeq seq s := by
  rw [execute]

theorem binary_ok (f : Word → Word → Word) (h1 : getOperand op1 s = .ok v) (h2 : getOperand op2 s = .ok w) :
    binary f op1 op2 s = setOperand op1 (f v w) s := by
  rw [binary, withOperand_ok h1, withOperand_ok h2]

theorem binary_error_left (f : Word → Word → Word) (h : getOperand op1 s = .error e) :
    binary f op1 op2 s = .raised e s := by
  rw [binary, withOperand_error h]

theorem binary_error_right (f : Word → Word → Word) (h1 : getOperand op1 s = .ok v)
    (h2 : getOperand op2 s = .error e) : binary f op1 op2 s = .raised e s := by
  rw [binary, withOperand_ok h1, withOperand_error h2]

/-- The flag a Dec writes, as arithmetic on the value written (42_alu.md R164). -/
theorem decZero_iff (width : Nat) (r : Word) : decZero width r = true ↔ r.toNat % 2 ^ width = 0 := by
  simp [decZero, ← BitVec.toNat_inj]

/-- A Dec whose write completes. -/
theorem execute_dec_done (h : getOperand op s = .ok v) (hw : setOperand op (v - 1#16) s = .done t) :
    execute (.dec op) s = .done (t.setZ (decZero (operandWidth op) (v - 1#16))) := by
  rw [execute_dec, withOperand_ok h, hw, Result.andThen_done]

/-- A Dec whose write fails leaves Z alone. -/
theorem execute_dec_raised (h : getOperand op s = .ok v) (hw : setOperand op (v - 1#16) s = .raised e t) :
    execute (.dec op) s = .raised e t := by
  rw [execute_dec, withOperand_ok h, hw, Result.andThen_raised]

/-! ## What a write through an operand leaves unchanged (40_step_operands.md R111 to R118) -/

/-- `t` has the registers, flags and pc of `s`. -/
structure State.SameOffMemory (s t : State) : Prop where
  r8 : ∀ r, t.r8 r = s.r8 r
  z : t.z = s.z
  cy : t.cy = s.cy
  pc : t.pc = s.pc

theorem liftWrite_writeByte_sameOffMemory (s : State) (addr : Addr) (b : Byte) :
    s.SameOffMemory (liftWrite s (s.writeByte addr b)).state := by
  rcases h : s.writeByte addr b with e | t
  · exact ⟨fun _ => rfl, rfl, rfl, rfl⟩
  · obtain ⟨hr8, hz, hcy, hpc, -⟩ := State.writeByte_frame h
    exact ⟨hr8, hz, hcy, hpc⟩

theorem Result.eq_state {r : Result} (h : r = .done t ∨ ∃ e, r = .raised e t) : t = r.state := by
  rcases h with rfl | ⟨e, rfl⟩ <;> rfl

theorem Result.done_or_raised (r : Result) : r = .done r.state ∨ ∃ e, r = .raised e r.state := by
  cases r with
  | done t => exact .inl rfl
  | raised e t => exact .inr ⟨e, rfl⟩

theorem State.writeWord_sameOffMemory (s : State) (addr : Addr) (v : Word) :
    s.SameOffMemory (s.writeWord addr v).state := by
  obtain ⟨hr8, hz, hcy, hpc, -⟩ := State.writeWord_frame (s.writeWord addr v).done_or_raised
  exact ⟨hr8, hz, hcy, hpc⟩

/-- Everything a write through an operand can do: assign a register, assign a flag, or touch memory alone. -/
theorem setOperand_cases (op : Operand) (v : Word) (s : State) :
    (∃ n, setOperand op v s = .done (s.writeReg n v)) ∨
    (∃ f b, (op = .flag f ∨ op = .notFlag f) ∧ setOperand op v s = liftWrite s (s.setFlag f b)) ∨
    s.SameOffMemory (setOperand op v s).state := by
  cases op with
  | reg n => exact .inl ⟨n, rfl⟩
  | flag f => exact .inr (.inl ⟨f, _, .inl rfl, rfl⟩)
  | notFlag f => exact .inr (.inl ⟨f, _, .inr rfl, rfl⟩)
  | absByte addr => exact .inr (.inr (liftWrite_writeByte_sameOffMemory s addr _))
  | indByte n => exact .inr (.inr (liftWrite_writeByte_sameOffMemory s _ _))
  | absWord addr => exact .inr (.inr (s.writeWord_sameOffMemory addr v))
  | indWord n => exact .inr (.inr (s.writeWord_sameOffMemory _ v))
  | rel addr => exact .inr (.inr ⟨fun _ => rfl, rfl, rfl, rfl⟩)

theorem liftWrite_setFlag_pc (s : State) (f : FlagName) (b : Bool) :
    (liftWrite s (s.setFlag f b)).state.pc = s.pc := by
  cases f <;> rfl

theorem liftWrite_raised {r : Except Trap State} (h : liftWrite s r = .raised e t) : t = s := by
  cases r <;> cases h
  rfl

theorem setOperand_pc (op : Operand) (v : Word) (s : State) : (setOperand op v s).state.pc = s.pc := by
  rcases setOperand_cases op v s with ⟨n, h⟩ | ⟨f, b, -, h⟩ | h
  · rw [h]
    exact s.writeReg_pc n v
  · rw [h]
    exact liftWrite_setFlag_pc s f b
  · exact h.pc

theorem setOperand_flags (hop : ∀ f, op ≠ .flag f ∧ op ≠ .notFlag f) (v : Word) (s : State) :
    (setOperand op v s).state.z = s.z ∧ (setOperand op v s).state.cy = s.cy := by
  rcases setOperand_cases op v s with ⟨n, h⟩ | ⟨f, b, hf, -⟩ | h
  · rw [h]
    exact ⟨s.writeReg_z n v, s.writeReg_cy n v⟩
  · exact absurd hf (not_or.mpr (hop f))
  · exact ⟨h.z, h.cy⟩

theorem setOperand_raised_r8 (h : setOperand op v s = .raised e t) (r : Reg8) : t.r8 r = s.r8 r := by
  rcases setOperand_cases op v s with ⟨n, hset⟩ | ⟨f, b, -, hset⟩ | hsame
  · rw [hset] at h
    cases h
  · rw [hset] at h
    rw [liftWrite_raised h]
  · rw [h] at hsame
    exact hsame.r8 r

end Kinds

/-- Settles O15: each kind is its operand reads, then its write; the frame of the write is by `setOperand_cases`. -/
theorem operandKinds : Obligations.OperandKinds := by
  refine ⟨fun o1 o2 s => ⟨fun v w h1 h2 => ?_, fun e h => ?_, fun v e h1 h2 => ?_, fun w h => ?_, fun e h => ?_⟩,
    fun o s => ⟨fun v h => ⟨?_, ?_, fun t ht => ⟨_, execute_dec_done h ht, decZero_iff _ _⟩,
      fun e t ht => execute_dec_raised h ht⟩, fun e h => ?_⟩,
    fun o s t v h => ?_, fun o s t v e => setOperand_raised_r8⟩
  · simp only [execute, binary_ok _ h1 h2, and_self]
  · simp only [execute, binary_error_left _ h, and_self]
  · simp only [execute, binary_error_right _ h1 h2, and_self]
  · rw [execute_load, withOperand_ok h]
  · rw [execute_load, withOperand_error h]
  · rw [execute_inc, withOperand_ok h]
  · rw [execute_shl, withOperand_ok h]
  · simp only [execute_inc, execute_shl, execute_dec, withOperand_error h, and_self]
  · rw [Result.eq_state h]
    exact ⟨setOperand_pc o v s, fun ho => setOperand_flags ho v s⟩

/-! ## A row of the one-byte map (30_encoding.md R78) -/

section OneByteRows

variable {i : Instr} {f : Form} {op : Byte} {fmt : Format} {record : Addr → Record}

theorem oneByteRow_of_form (hi : i.form = f) (hop : f.opcode = op) (hfmt : f.format ≠ .fcb) :
    OneByteRow op i f.format f.record := by
  subst hi hop
  exact ⟨fun sub => decode_row i sub fun h => absurd h hfmt, rfl, fun _ => rfl⟩

/-- A row runs its record after Advance-PC, and halts with its opcode byte (40_step_operands.md R104 to R107). -/
theorem exec_of_oneByteRow (h : OneByteRow op i fmt record) (s : State) :
    exec i s = finish s.pc op (execute (record s.pc) (s.advance fmt.length)) := by
  obtain ⟨hdec, hfmt, hrec⟩ := h
  obtain ⟨hop, -⟩ := decode_row_inv (hdec 0#8)
  rw [exec_eq_runForm, runForm, runRecord, Form.length, hfmt, hrec, hop]

end OneByteRows

@[simp] theorem format_f1_length : Format.f1.length = 1 := rfl
@[simp] theorem format_f2i_length : Format.f2i.length = 2 := rfl
@[simp] theorem format_f3_length : Format.f3.length = 3 := rfl

/-! ## The operands of the load rows -/

section LoadOperands

variable {s t : State} {n : Nat} {p : Pair} {v : Byte} {e : Trap}

@[simp] theorem State.readReg_r8 (s : State) (r : Reg8) : s.readReg (.r8 r) = zext16 (s.r8 r) := rfl

@[simp] theorem State.readReg_pair (s : State) (p : Pair) : s.readReg (.pair p) = s.pair p := rfl

@[simp] theorem State.writeReg_r8_zext16 (s : State) (r : Reg8) (v : Byte) :
    s.writeReg (.r8 r) (zext16 v) = s.setR8 r v := by
  rw [State.writeReg, lowByte_zext16]

@[simp] theorem State.writeReg_pair (s : State) (p : Pair) (v : Word) : s.writeReg (.pair p) v = s.setPair p v := rfl

@[simp] theorem State.setR8_r8_self (s : State) (r : Reg8) : s.setR8 r (s.r8 r) = s := by cases r <;> rfl

theorem State.setPair_composeWord (s : State) (p : Pair) (hi lo : Byte) :
    s.setPair p (composeWord hi lo) = (s.setR8 (highReg p) hi).setR8 (lowReg p) lo := by
  simp [State.setPair]

/-- A is in no pair (10_state.md R12). -/
@[simp] theorem State.setR8_a_pair (s : State) (v : Byte) (p : Pair) : (s.setR8 .a v).pair p = s.pair p := by
  cases p <;> rfl

/-- A byte stored through a pair, after Advance-PC. -/
theorem setOperand_indByte_zext16_ok (h : s.writeByte (s.pair p) v = .ok t) :
    setOperand (.indByte (.pair p)) (zext16 v) (s.advance n) = .done (t.advance n) :=
  setOperand_indByte_advance_ok (by rwa [lowByte_zext16])

theorem setOperand_indByte_zext16_error (h : s.writeByte (s.pair p) v = .error e) :
    setOperand (.indByte (.pair p)) (zext16 v) (s.advance n) = .raised e (s.advance n) :=
  setOperand_indByte_advance_error (by rwa [lowByte_zext16])

/-- Z after a 16-bit decrement: the old value was 1 (42_alu.md R164). -/
theorem decZero_word_sub_one (v : Word) : decZero 16 (v - 1#16) = (v == 1#16) := by
  rw [decZero_word, Bool.eq_iff_iff, beq_iff_eq, beq_iff_eq]
  exact sub_eq_zero

@[simp] theorem execute_inc_pair (p : Pair) (s : State) :
    execute (.inc (.reg (.pair p))) s = .done (s.setPair p (s.pair p + 1#16)) := by
  simp [execute_inc]

@[simp] theorem execute_dec_pair (p : Pair) (s : State) :
    execute (.dec (.reg (.pair p))) s = .done ((s.setPair p (s.pair p - 1#16)).setZ (s.pair p == 1#16)) := by
  simp [execute_dec, operandWidth, decZero_word_sub_one]

end LoadOperands

/-! ## The rows with one access through a pair -/

section ThroughPair

variable {i : Instr} {op : Byte} {r : Reg8} {p : Pair}

/-- A register loaded from the byte at a pair, and the halt of the failed read (R132, R139, R140). -/
theorem exec_load_from_pair (hrow : OneByteRow op i .f1 fun _ => .load (.reg (.r8 r)) (.indByte (.pair p))) :
    (∀ s v, s.readByte (s.pair p) = .ok v → exec i s = .next ((s.advance 1).setR8 r v)) ∧
    (∀ s e, s.readByte (s.pair p) = .error e →
      exec i s = .next ((s.advance 1).takeHalt .execute s.pc (some op) e)) := by
  refine ⟨fun s v h => ?_, fun s e h => ?_⟩
  · simp [exec_of_oneByteRow hrow, withOperand_indByte_ok h]
  · simp [exec_of_oneByteRow hrow, withOperand_indByte_error h]

/-- A register stored to the byte at a pair, and the halt of the failed write (R133, R137, R138). -/
theorem exec_store_to_pair (hrow : OneByteRow op i .f1 fun _ => .load (.indByte (.pair p)) (.reg (.r8 r))) :
    (∀ s t, s.writeByte (s.pair p) (s.r8 r) = .ok t → exec i s = .next (t.advance 1)) ∧
    (∀ s e, s.writeByte (s.pair p) (s.r8 r) = .error e →
      exec i s = .next ((s.advance 1).takeHalt .execute s.pc (some op) e)) := by
  refine ⟨fun s t h => ?_, fun s e h => ?_⟩
  · simp [exec_of_oneByteRow hrow, setOperand_indByte_zext16_ok h]
  · simp [exec_of_oneByteRow hrow, setOperand_indByte_zext16_error h]

end ThroughPair

/-! ## The load family -/

/-- Settles O18: the register read and the register write of the row; a register set to itself is unchanged. -/
theorem loadRegisterFromRegister : Obligations.LoadRegisterFromRegister := by
  intro p hp q hq
  have hdst : p.2.code = p.1 := by revert p; decide
  have hsrc : q.2.code = q.1 := by revert q; decide
  intro i hi
  have hrow : OneByteRow (BitVec.ofNat 8 (0x40 + 8 * p.1 + q.1)) i .f1
      fun _ => .load (.reg (.r8 p.2)) (.reg (.r8 q.2)) :=
    oneByteRow_of_form hi (by rw [Form.opcode, hdst, hsrc]) nofun
  have hexec (s : State) : exec i s = .next ((s.advance 1).setR8 p.2 (s.r8 q.2)) := by
    simp [exec_of_oneByteRow hrow]
  refine ⟨hrow, hexec, fun hpq s => ?_⟩
  rw [hexec, ← hpq, ← s.advance_r8 1, State.setR8_r8_self]

/-- Settles O19: `exec_load_from_pair` at HL. -/
theorem loadRegisterFromHL : Obligations.LoadRegisterFromHL := by
  intro p hp
  have hop : (Form.ldRegInd p.2).opcode = p.1 := by revert p; decide
  intro i hi
  have hrow : OneByteRow p.1 i .f1 fun _ => .load (.reg (.r8 p.2)) (.indByte (.pair .hl)) :=
    oneByteRow_of_form hi hop nofun
  exact ⟨hrow, exec_load_from_pair hrow⟩

/-- Settles O20: `exec_store_to_pair` at HL; the opcode map has a dash at 0x76. -/
theorem storeRegisterToHL : Obligations.StoreRegisterToHL := by
  refine ⟨fun p hp => ?_, decode_of_oneByteRow_none (by decide) rfl⟩
  have hop : (Form.ldIndReg p.2).opcode = p.1 := by revert p; decide
  intro i hi
  have hrow : OneByteRow p.1 i .f1 fun _ => .load (.indByte (.pair .hl)) (.reg (.r8 p.2)) :=
    oneByteRow_of_form hi hop nofun
  exact ⟨hrow, exec_store_to_pair hrow⟩

/-- Settles O21: `withOperand_absByte_ok` and `withOperand_absByte_error` are the read of the immediate. -/
theorem loadRegisterImmediate : Obligations.LoadRegisterImmediate := by
  intro p hp
  have hop : (Form.ldRegImm p.2).opcode = p.1 := by revert p; decide
  intro i hi
  have hrow : OneByteRow p.1 i .f2i fun pc0 => .load (.reg (.r8 p.2)) (.absByte (pc0 + 1#16)) :=
    oneByteRow_of_form hi hop nofun
  refine ⟨hrow, fun s v h => ?_, fun s e h => ?_⟩
  · simp [exec_of_oneByteRow hrow, withOperand_absByte_ok h]
  · simp [exec_of_oneByteRow hrow, withOperand_absByte_error h]

/-- Settles O22: the read of the immediate, then the write at HL. -/
theorem storeImmediateToHL : Obligations.StoreImmediateToHL := by
  intro i hi
  have hrow : OneByteRow 0x36#8 i .f2i fun pc0 => .load (.indByte (.pair .hl)) (.absByte (pc0 + 1#16)) :=
    oneByteRow_of_form hi rfl nofun
  refine ⟨hrow, fun s v t hread hwrite => ?_, fun s e h => ?_, fun s v e hread hwrite => ?_⟩
  · simp [exec_of_oneByteRow hrow, withOperand_absByte_ok hread, setOperand_indByte_zext16_ok hwrite]
  · simp [exec_of_oneByteRow hrow, withOperand_absByte_error h]
  · simp [exec_of_oneByteRow hrow, withOperand_absByte_ok hread, setOperand_indByte_zext16_error hwrite]

/-- Settles O23: the three ways the word read of the immediate can go; a composed word splits into its bytes. -/
theorem loadPairImmediate : Obligations.LoadPairImmediate := by
  intro p hp
  have hop : (Form.ldPairImm p.2).opcode = p.1 := by revert p; decide
  intro i hi
  have hrow : OneByteRow p.1 i .f3 fun pc0 => .load (.reg (.pair p.2)) (.absWord (pc0 + 1#16)) :=
    oneByteRow_of_form hi hop nofun
  refine ⟨hrow, fun s low high hlo hhi => ?_, fun s e h => ?_, fun s low e hlo h => ?_⟩
  · rw [← addr_succ_succ] at hhi
    simp [exec_of_oneByteRow hrow, withOperand_absWord_ok hlo hhi, State.setPair_composeWord]
  · simp [exec_of_oneByteRow hrow, withOperand_absWord_error_low h]
  · rw [← addr_succ_succ] at h
    simp [exec_of_oneByteRow hrow, withOperand_absWord_error_high hlo h]

/-- Settles O24: `exec_store_to_pair` and `exec_load_from_pair` at BC and DE. -/
theorem accumulatorThroughBCAndDE : Obligations.AccumulatorThroughBCAndDE := by
  constructor
  · rintro ⟨op, p, f⟩ hp i hi
    have hrow : OneByteRow op i .f1 fun _ => .load (.indByte (.pair p)) (.reg (.r8 .a)) := by
      simp only [List.mem_cons, Prod.mk.injEq, List.not_mem_nil, or_false] at hp
      rcases hp with ⟨rfl, rfl, rfl⟩ | ⟨rfl, rfl, rfl⟩ <;> exact oneByteRow_of_form hi rfl nofun
    exact ⟨hrow, exec_store_to_pair hrow⟩
  · rintro ⟨op, p, f⟩ hp i hi
    have hrow : OneByteRow op i .f1 fun _ => .load (.reg (.r8 .a)) (.indByte (.pair p)) := by
      simp only [List.mem_cons, Prod.mk.injEq, List.not_mem_nil, or_false] at hp
      rcases hp with ⟨rfl, rfl, rfl⟩ | ⟨rfl, rfl, rfl⟩ <;> exact oneByteRow_of_form hi rfl nofun
    exact ⟨hrow, exec_load_from_pair hrow⟩

/-- Settles O25: the access at HL, which leaves HL, then `execute_inc_pair`; a failed access stops the list. -/
theorem postIncrementLoads : Obligations.PostIncrementLoads := by
  constructor
  · intro i hi
    have hrow : OneByteRow 0x22#8 i .f1
        fun _ => .stacked [.load (.indByte (.pair .hl)) (.reg (.r8 .a)), .inc (.reg (.pair .hl))] :=
      oneByteRow_of_form hi rfl nofun
    refine ⟨hrow, fun s t h => ?_, fun s e h => ?_⟩
    · simp [exec_of_oneByteRow hrow, setOperand_indByte_zext16_ok h, State.writeByte_pair h]
    · simp [exec_of_oneByteRow hrow, setOperand_indByte_zext16_error h]
  · intro i hi
    have hrow : OneByteRow 0x2A#8 i .f1
        fun _ => .stacked [.load (.reg (.r8 .a)) (.indByte (.pair .hl)), .inc (.reg (.pair .hl))] :=
      oneByteRow_of_form hi rfl nofun
    refine ⟨hrow, fun s v h => ?_, fun s e h => ?_⟩
    · simp [exec_of_oneByteRow hrow, withOperand_indByte_ok h]
    · simp [exec_of_oneByteRow hrow, withOperand_indByte_error h]

/-- Settles O26: the access at HL, which leaves HL, then `execute_dec_pair`; a failed access stops the list. -/
theorem postDecrementLoads : Obligations.PostDecrementLoads := by
  constructor
  · intro i hi
    have hrow : OneByteRow 0x32#8 i .f1
        fun _ => .stacked [.load (.indByte (.pair .hl)) (.reg (.r8 .a)), .dec (.reg (.pair .hl))] :=
      oneByteRow_of_form hi rfl nofun
    refine ⟨hrow, fun s t h => ?_, fun s e h => ?_⟩
    · simp [exec_of_oneByteRow hrow, setOperand_indByte_zext16_ok h, State.writeByte_pair h]
    · simp [exec_of_oneByteRow hrow, setOperand_indByte_zext16_error h]
  · intro i hi
    have hrow : OneByteRow 0x3A#8 i .f1
        fun _ => .stacked [.load (.reg (.r8 .a)) (.indByte (.pair .hl)), .dec (.reg (.pair .hl))] :=
      oneByteRow_of_form hi rfl nofun
    refine ⟨hrow, fun s v h => ?_, fun s e h => ?_⟩
    · simp [exec_of_oneByteRow hrow, withOperand_indByte_ok h]
    · simp [exec_of_oneByteRow hrow, withOperand_indByte_error h]

end Sys2Proof.Machine

/-! Proofs of the family 42_alu.md: ADD and XOR (R167 to R173), INC and DEC (R174 to R179), SLA (R180, R181) and CPL
(R182). -/

namespace Sys2Proof.Machine

/-! ## A 16-bit result cut to 8 bits (R160, R164) -/

@[simp] theorem State.writeReg_r8 (s : State) (r : Reg8) (v : Word) :
    s.writeReg (.r8 r) v = s.setR8 r (lowByte v) := rfl

@[simp] theorem lowByte_one : lowByte 1#16 = 1#8 := rfl

/-- Z after a decrement of a byte: the old value was 1. -/
theorem decZero_byte_sub_one (v : Byte) : decZero 8 (zext16 v - 1#16) = (v == 1#8) := by
  rw [decZero_byte, lowByte_sub_one, lowByte_zext16, Bool.eq_iff_iff, beq_iff_eq, beq_iff_eq]
  exact sub_eq_zero

/-! ## The kinds on the operands of the rows -/

section AluOperands

variable {s : State} {p : Pair} {v : Byte}

/-- The two-operand kind computes on 16-bit values what `g` computes on their low bytes (R160). -/
def KindOnBytes (kind : Operand → Operand → Record) (g : Byte → Byte → Byte) : Prop :=
  ∃ f : Word → Word → Word, (∀ op1 op2 s, execute (kind op1 op2) s = binary f op1 op2 s) ∧
    ∀ v w, lowByte (f v w) = g (lowByte v) (lowByte w)

theorem add_kindOnBytes : KindOnBytes .add (· + ·) := ⟨(· + ·), fun _ _ _ => by rw [execute], lowByte_add⟩

theorem xor_kindOnBytes : KindOnBytes .xor (· ^^^ ·) := ⟨(· ^^^ ·), fun _ _ _ => by rw [execute], lowByte_xor⟩

@[simp] theorem execute_add_pairs (p q : Pair) (s : State) :
    execute (.add (.reg (.pair p)) (.reg (.pair q))) s = .done (s.setPair p (s.pair p + s.pair q)) := by
  rw [execute, binary_ok _ (getOperand_reg _ s) (getOperand_reg _ s)]
  rfl

@[simp] theorem execute_inc_r8 (r : Reg8) (s : State) :
    execute (.inc (.reg (.r8 r))) s = .done (s.setR8 r (s.r8 r + 1#8)) := by
  simp [execute_inc]

@[simp] theorem execute_dec_r8 (r : Reg8) (s : State) :
    execute (.dec (.reg (.r8 r))) s = .done ((s.setR8 r (s.r8 r - 1#8)).setZ (s.r8 r == 1#8)) := by
  simp [execute_dec, operandWidth, decZero_byte_sub_one, lowByte_sub_one]

@[simp] theorem execute_shl_r8 (r : Reg8) (s : State) :
    execute (.shl (.reg (.r8 r))) s = .done (s.setR8 r (s.r8 r <<< 1)) := by
  simp [execute_shl]

@[simp] theorem execute_cpl (s : State) : execute .cpl s = .done (s.setR8 .a (s.r8 .a ^^^ 0xFF#8)) := by
  rw [execute, runCpl]

/-- A byte that was read through a pair can be written back there (R175). -/
theorem setOperand_indByte_of_readByte (h : s.readByte (s.pair p) = .ok v) (w : Word) (n : Nat) :
    ∃ t, s.writeByte (s.pair p) (lowByte w) = .ok t ∧
      setOperand (.indByte (.pair p)) w (s.advance n) = .done (t.advance n) := by
  obtain ⟨_, -, hw⟩ := State.writeByte_of_readByte (lowByte w) h
  exact ⟨_, hw, setOperand_indByte_advance_ok hw⟩

end AluOperands

/-! ## A row of the CB map (30_encoding.md R79) -/

section PrefixedRows

variable {i : Instr} {f : Form} {sub : Byte} {record : Addr → Record}

theorem prefixedRow_of_form (hi : i.form = f) (hsub : f.subOpcode = sub) (hfmt : f.format = .fcb) :
    PrefixedRow sub i f.record := by
  subst hi hsub
  have hdec := decode_row i i.form.subOpcode fun _ => rfl
  rw [i.form.opcode_prefix_iff.mpr hfmt] at hdec
  exact ⟨hdec, hfmt, fun _ => rfl⟩

/-- A CB row runs its record after Advance-PC by two, and halts with 0xCB as its opcode byte. -/
theorem exec_of_prefixedRow (h : PrefixedRow sub i record) (s : State) :
    exec i s = finish s.pc 0xCB#8 (execute (record s.pc) (s.advance 2)) := by
  obtain ⟨hdec, hfmt, hrec⟩ := h
  obtain ⟨hop, -⟩ := decode_row_inv hdec
  rw [exec_eq_runForm, runForm, runRecord, Form.length, hfmt, hrec, ← hop]
  rfl

end PrefixedRows

/-! ## ADD and XOR -/

section Accumulator

variable {i : Instr} {op : Byte} {fmt : Format} {kind : Operand → Operand → Record} {g : Byte → Byte → Byte}
  {src : Addr → Operand} {s : State} {n : Nat} {v : Byte} {e : Trap}

/-- A byte source combined into A. -/
theorem exec_accumulator (hk : KindOnBytes kind g)
    (hrow : OneByteRow op i fmt fun pc0 => kind (.reg (.r8 .a)) (src pc0)) (hlen : fmt.length = n)
    (h : getOperand (src s.pc) (s.advance n) = .ok (zext16 v)) :
    exec i s = .next ((s.advance n).setR8 .a (g (s.r8 .a) v)) := by
  obtain ⟨f, hexec, hlow⟩ := hk
  rw [exec_of_oneByteRow hrow, hlen, hexec, binary_ok f (getOperand_reg _ _) h]
  simp [hlow]

/-- A failed source halts, with A unchanged. -/
theorem exec_accumulator_error (hk : KindOnBytes kind g)
    (hrow : OneByteRow op i fmt fun pc0 => kind (.reg (.r8 .a)) (src pc0)) (hlen : fmt.length = n)
    (h : getOperand (src s.pc) (s.advance n) = .error e) :
    exec i s = .next ((s.advance n).takeHalt .execute s.pc (some op) e) := by
  obtain ⟨f, hexec, -⟩ := hk
  rw [exec_of_oneByteRow hrow, hlen, hexec, binary_error_right f (getOperand_reg _ _) h, finish_raised]

end Accumulator

/-- A register combined into A. -/
theorem exec_accumulator_register {i : Instr} {op : Byte} {r : Reg8} {kind : Operand → Operand → Record}
    {g : Byte → Byte → Byte} (hk : KindOnBytes kind g)
    (hrow : OneByteRow op i .f1 fun _ => kind (.reg (.r8 .a)) (.reg (.r8 r))) (s : State) :
    exec i s = .next ((s.advance 1).setR8 .a (g (s.r8 .a) (s.r8 r))) :=
  exec_accumulator hk hrow rfl (by simp)

/-- Settles O27: `exec_accumulator_register` for both kinds; a byte xor itself is zero. -/
theorem addAndXorRegister : Obligations.AddAndXorRegister := by
  constructor
  · intro p hp
    have hop : (Form.addReg p.2).opcode = p.1 := by revert p; decide
    intro i hi
    have hrow : OneByteRow p.1 i .f1 fun _ => .add (.reg (.r8 .a)) (.reg (.r8 p.2)) :=
      oneByteRow_of_form hi hop nofun
    exact ⟨hrow, exec_accumulator_register add_kindOnBytes hrow⟩
  · intro p hp
    have hop : (Form.xorReg p.2).opcode = p.1 := by revert p; decide
    intro i hi
    have hrow : OneByteRow p.1 i .f1 fun _ => .xor (.reg (.r8 .a)) (.reg (.r8 p.2)) :=
      oneByteRow_of_form hi hop nofun
    have hexec := exec_accumulator_register xor_kindOnBytes hrow
    refine ⟨hrow, hexec, fun ha s => ?_⟩
    rw [hexec, ha, BitVec.xor_self]

/-- Settles O28: `exec_accumulator` after the read at HL, `exec_accumulator_error` where it fails. -/
theorem addAndXorFromHL : Obligations.AddAndXorFromHL := by
  rintro ⟨op, f, kind, g⟩ hp i hi
  obtain ⟨hrow, hk⟩ : (OneByteRow op i .f1 fun _ => kind (.reg (.r8 .a)) (.indByte (.pair .hl))) ∧
      KindOnBytes kind g := by
    simp only [List.mem_cons, Prod.mk.injEq, List.not_mem_nil, or_false] at hp
    rcases hp with ⟨rfl, rfl, rfl, rfl⟩ | ⟨rfl, rfl, rfl, rfl⟩
    · exact ⟨oneByteRow_of_form hi rfl nofun, add_kindOnBytes⟩
    · exact ⟨oneByteRow_of_form hi rfl nofun, xor_kindOnBytes⟩
  exact ⟨hrow, fun s v h => exec_accumulator hk hrow rfl (getOperand_indByte_ok (by simpa using h)),
    fun s e h => exec_accumulator_error hk hrow rfl (getOperand_indByte_error (by simpa using h))⟩

/-- Settles O29: `exec_accumulator` after the read of the immediate, `exec_accumulator_error` where it fails. -/
theorem addAndXorImmediate : Obligations.AddAndXorImmediate := by
  rintro ⟨op, f, kind, g⟩ hp i hi
  obtain ⟨hrow, hk⟩ : (OneByteRow op i .f2i fun pc0 => kind (.reg (.r8 .a)) (.absByte (pc0 + 1#16))) ∧
      KindOnBytes kind g := by
    simp only [List.mem_cons, Prod.mk.injEq, List.not_mem_nil, or_false] at hp
    rcases hp with ⟨rfl, rfl, rfl, rfl⟩ | ⟨rfl, rfl, rfl, rfl⟩
    · exact ⟨oneByteRow_of_form hi rfl nofun, add_kindOnBytes⟩
    · exact ⟨oneByteRow_of_form hi rfl nofun, xor_kindOnBytes⟩
  exact ⟨hrow, fun s v h => exec_accumulator hk hrow rfl (getOperand_absByte_ok h),
    fun s e h => exec_accumulator_error hk hrow rfl (getOperand_absByte_error h)⟩

/-- Settles O30: `execute_add_pairs` after Advance-PC. -/
theorem addPairToHL : Obligations.AddPairToHL := by
  intro p hp
  have hop : (Form.addPair p.2).opcode = p.1 := by revert p; decide
  intro i hi
  have hrow : OneByteRow p.1 i .f1 fun _ => .add (.reg (.pair .hl)) (.reg (.pair p.2)) :=
    oneByteRow_of_form hi hop nofun
  exact ⟨hrow, fun s => by simp [exec_of_oneByteRow hrow]⟩

/-! ## INC and DEC -/

/-- Settles O31: `execute_inc_r8` and `execute_inc_pair` after Advance-PC. -/
theorem incrementRegisterAndPair : Obligations.IncrementRegisterAndPair := by
  constructor
  · intro p hp
    have hop : (Form.incReg p.2).opcode = p.1 := by revert p; decide
    intro i hi
    have hrow : OneByteRow p.1 i .f1 fun _ => .inc (.reg (.r8 p.2)) := oneByteRow_of_form hi hop nofun
    exact ⟨hrow, fun s => by simp [exec_of_oneByteRow hrow]⟩
  · intro p hp
    have hop : (Form.incPair p.2).opcode = p.1 := by revert p; decide
    intro i hi
    have hrow : OneByteRow p.1 i .f1 fun _ => .inc (.reg (.pair p.2)) := oneByteRow_of_form hi hop nofun
    exact ⟨hrow, fun s => by simp [exec_of_oneByteRow hrow]⟩

/-- Settles O32: the read at HL, then the write back, which `setOperand_indByte_of_readByte` completes. -/
theorem incrementAndDecrementAtHL : Obligations.IncrementAndDecrementAtHL := by
  constructor
  · intro i hi
    have hrow : OneByteRow 0x34#8 i .f1 fun _ => .inc (.indByte (.pair .hl)) := oneByteRow_of_form hi rfl nofun
    refine ⟨hrow, fun s v h => ?_, fun s e h => ?_⟩
    · obtain ⟨t, hw, hset⟩ := setOperand_indByte_of_readByte h (zext16 v + 1#16) 1
      refine ⟨t, by simpa using hw, ?_⟩
      simp [exec_of_oneByteRow hrow, execute_inc, withOperand_indByte_ok h, hset]
    · simp [exec_of_oneByteRow hrow, execute_inc, withOperand_indByte_error h]
  · intro i hi
    have hrow : OneByteRow 0x35#8 i .f1 fun _ => .dec (.indByte (.pair .hl)) := oneByteRow_of_form hi rfl nofun
    refine ⟨hrow, fun s v h => ?_, fun s e h => ?_⟩
    · obtain ⟨t, hw, hset⟩ := setOperand_indByte_of_readByte h (zext16 v - 1#16) 1
      refine ⟨t, by simpa [lowByte_sub_one] using hw, ?_⟩
      simp [exec_of_oneByteRow hrow, execute_dec, withOperand_indByte_ok h, hset, operandWidth, decZero_byte_sub_one]
    · simp [exec_of_oneByteRow hrow, execute_dec, withOperand_indByte_error h]

/-- Settles O33: `execute_dec_r8` and `execute_dec_pair` after Advance-PC. -/
theorem decrementRegisterAndPair : Obligations.DecrementRegisterAndPair := by
  constructor
  · intro p hp
    have hop : (Form.decReg p.2).opcode = p.1 := by revert p; decide
    intro i hi
    have hrow : OneByteRow p.1 i .f1 fun _ => .dec (.reg (.r8 p.2)) := oneByteRow_of_form hi hop nofun
    exact ⟨hrow, fun s => by simp [exec_of_oneByteRow hrow]⟩
  · intro p hp
    have hop : (Form.decPair p.2).opcode = p.1 := by revert p; decide
    intro i hi
    have hrow : OneByteRow p.1 i .f1 fun _ => .dec (.reg (.pair p.2)) := oneByteRow_of_form hi hop nofun
    exact ⟨hrow, fun s => by simp [exec_of_oneByteRow hrow]⟩

/-! ## SLA and CPL -/

/-- Settles O34: `execute_shl_r8`, the read and write back at HL, and the halt of Decode at the second byte. -/
theorem shiftLeft : Obligations.ShiftLeft := by
  refine ⟨fun p hp => ?register, fun i hi => ?atHL, fun s e hrun hop h => ?second⟩
  case register =>
    have hsub : (Form.slaReg p.2).subOpcode = p.1 := by revert p; decide
    intro i hi
    have hrow : PrefixedRow p.1 i fun _ => .shl (.reg (.r8 p.2)) := prefixedRow_of_form hi hsub rfl
    exact ⟨hrow, fun s => by simp [exec_of_prefixedRow hrow]⟩
  case atHL =>
    have hrow : PrefixedRow 0x26#8 i fun _ => .shl (.indByte (.pair .hl)) := prefixedRow_of_form hi rfl rfl
    refine ⟨hrow, fun s v h => ?_, fun s e h => ?_⟩
    · obtain ⟨t, hw, hset⟩ := setOperand_indByte_of_readByte h (zext16 v <<< 1) 2
      refine ⟨t, by simpa using hw, ?_⟩
      simp [exec_of_prefixedRow hrow, execute_shl, withOperand_indByte_ok h, hset]
    · simp [exec_of_prefixedRow hrow, execute_shl, withOperand_indByte_error h]
  case second => exact stepWith_of_fetchDecode_halted hrun (fetchDecode_of_second_error hop rfl h)

/-- Settles O35: `execute_cpl` after Advance-PC; a byte xor 0xFF twice is the byte. -/
theorem complementAccumulator : Obligations.ComplementAccumulator := by
  intro i hi
  have hrow : OneByteRow 0x2F#8 i .f1 fun _ => .cpl := oneByteRow_of_form hi rfl nofun
  have hexec (s : State) : exec i s = .next ((s.advance 1).setR8 .a (s.r8 .a ^^^ 0xFF#8)) := by
    simp [exec_of_oneByteRow hrow]
  refine ⟨hrow, hexec, fun s t u ht hu => ?_⟩
  rw [hexec] at ht hu
  cases ht
  cases hu
  rw [State.setR8_r8_same, State.setR8_r8_same, BitVec.xor_assoc, BitVec.xor_self, BitVec.xor_zero]

end Sys2Proof.Machine

/-! Proofs of the family 43_control.md: the Jump kind (R190), JP and JR (R191 to R195), and the frame of the jumps. -/

namespace Sys2Proof.Machine

/-! ## The Jump kind on any operands (R190) -/

section JumpKind

variable {cond target : Operand} {s : State} {v : Word} {a : Addr} {e : Trap}

/-- Whatever the target is, it is not resolved. -/
theorem execute_jump_not_taken (hc : getOperand cond s = .ok 0#16) :
    execute (.jump cond target) s = .done s := by
  rw [execute, runJump, withOperand_ok hc, if_pos rfl]

theorem execute_jump_taken (hc : getOperand cond s = .ok v) (hv : v ≠ 0#16) (ht : getOperand target s = .ok a) :
    execute (.jump cond target) s = .done (s.setPc a) := by
  rw [execute, runJump, withOperand_ok hc, if_neg hv, withOperand_ok ht]

theorem execute_jump_error (hc : getOperand cond s = .ok v) (hv : v ≠ 0#16) (ht : getOperand target s = .error e) :
    execute (.jump cond target) s = .raised e s := by
  rw [execute, runJump, withOperand_ok hc, if_neg hv, withOperand_error ht]

end JumpKind

/-- Settles O16: the condition's value decides between `execute_jump_not_taken` and, by what resolving the target
answers, `execute_jump_taken` or `execute_jump_error`. -/
theorem jumpKind : Obligations.JumpKind := by
  intro cond target s v hc
  refine ⟨fun hv => ?_, fun hv => ⟨fun a => execute_jump_taken hc hv, fun e => execute_jump_error hc hv⟩⟩
  subst hv
  exact execute_jump_not_taken hc

/-! ## The conditions and the targets of the rows, after Advance-PC -/

/-- A jump overwrites what Advance-PC wrote. -/
theorem State.advance_setPc (s : State) (n : Nat) (a : Addr) : (s.advance n).setPc a = s.setPc a := rfl

theorem getOperand_always (s : State) : getOperand (.flag .always) s = .ok 1#16 := rfl

theorem getOperand_cond_of_holds {cc : Cond} {s : State} (h : s.condHolds cc = true) (n : Nat) :
    getOperand cc.operand (s.advance n) = .ok 1#16 := by
  rw [getOperand_cond, State.advance_condHolds, h]
  rfl

theorem getOperand_cond_of_not_holds {cc : Cond} {s : State} (h : s.condHolds cc = false) (n : Nat) :
    getOperand cc.operand (s.advance n) = .ok 0#16 := by
  rw [getOperand_cond, State.advance_condHolds, h]
  rfl

/-- The target of a relative jump: two bytes on, plus the signed displacement (R193). -/
theorem pc_add_two_add_sext16 (pc : Addr) (d : Byte) :
    pc + 2#16 + sext16 d = BitVec.ofInt 16 (pc.toNat + 2 + d.toInt) := by
  rw [BitVec.ofInt_add, BitVec.ofInt_add, BitVec.ofInt_natCast, BitVec.ofNat_toNat, BitVec.setWidth_eq]
  rfl

/-! ## A row of the Jump kind -/

section JumpRows

variable {i : Instr} {op : Byte} {fmt : Format} {cond : Operand} {target : Addr → Operand} {s : State} {n : Nat}
  {a : Addr} {e : Trap}

theorem exec_jump_not_taken (hrow : OneByteRow op i fmt fun pc0 => .jump cond (target pc0)) (hlen : fmt.length = n)
    (hc : getOperand cond (s.advance n) = .ok 0#16) : exec i s = .next (s.advance n) := by
  rw [exec_of_oneByteRow hrow, hlen, execute_jump_not_taken hc, finish_done]

theorem exec_jump_taken (hrow : OneByteRow op i fmt fun pc0 => .jump cond (target pc0)) (hlen : fmt.length = n)
    (hc : getOperand cond (s.advance n) = .ok 1#16) (ht : getOperand (target s.pc) (s.advance n) = .ok a) :
    exec i s = .next (s.setPc a) := by
  rw [exec_of_oneByteRow hrow, hlen, execute_jump_taken hc (by decide) ht, finish_done, State.advance_setPc]

theorem exec_jump_error (hrow : OneByteRow op i fmt fun pc0 => .jump cond (target pc0)) (hlen : fmt.length = n)
    (hc : getOperand cond (s.advance n) = .ok 1#16) (ht : getOperand (target s.pc) (s.advance n) = .error e) :
    exec i s = .next ((s.advance n).takeHalt .execute s.pc (some op) e) := by
  rw [exec_of_oneByteRow hrow, hlen, execute_jump_error hc (by decide) ht, finish_raised]

end JumpRows

/-! ### To the word after the opcode (R191, R192) -/

section AbsoluteRows

variable {i : Instr} {op : Byte} {cond : Operand} {s : State} {lo hi : Byte} {e : Trap}

theorem exec_jump_absWord_ok (hrow : OneByteRow op i .f3 fun pc0 => .jump cond (.absWord (pc0 + 1#16)))
    (hc : getOperand cond (s.advance 3) = .ok 1#16) (hlo : s.readByte (s.pc + 1#16) = .ok lo)
    (hhi : s.readByte (s.pc + 2#16) = .ok hi) : exec i s = .next (s.setPc (composeWord hi lo)) := by
  rw [← addr_succ_succ] at hhi
  exact exec_jump_taken hrow rfl hc (State.readWord_ok hlo hhi)

theorem exec_jump_absWord_error_low (hrow : OneByteRow op i .f3 fun pc0 => .jump cond (.absWord (pc0 + 1#16)))
    (hc : getOperand cond (s.advance 3) = .ok 1#16) (h : s.readByte (s.pc + 1#16) = .error e) :
    exec i s = .next ((s.advance 3).takeHalt .execute s.pc (some op) e) :=
  exec_jump_error hrow rfl hc (State.readWord_error_low h)

theorem exec_jump_absWord_error_high (hrow : OneByteRow op i .f3 fun pc0 => .jump cond (.absWord (pc0 + 1#16)))
    (hc : getOperand cond (s.advance 3) = .ok 1#16) (hlo : s.readByte (s.pc + 1#16) = .ok lo)
    (h : s.readByte (s.pc + 2#16) = .error e) :
    exec i s = .next ((s.advance 3).takeHalt .execute s.pc (some op) e) := by
  rw [← addr_succ_succ] at h
  exact exec_jump_error hrow rfl hc (State.readWord_error_high hlo h)

end AbsoluteRows

/-! ### By a signed byte (R193, R194) -/

section RelativeRows

variable {i : Instr} {op : Byte} {cond : Operand} {s : State} {d : Byte} {e : Trap}

theorem exec_jump_rel_ok (hrow : OneByteRow op i .f2r fun pc0 => .jump cond (.rel (pc0 + 1#16)))
    (hc : getOperand cond (s.advance 2) = .ok 1#16) (h : s.readByte (s.pc + 1#16) = .ok d) :
    exec i s = .next (s.setPc (BitVec.ofInt 16 (s.pc.toNat + 2 + d.toInt))) := by
  rw [← pc_add_two_add_sext16]
  exact exec_jump_taken hrow rfl hc (getOperand_rel_ok (s := s.advance 2) h)

theorem exec_jump_rel_error (hrow : OneByteRow op i .f2r fun pc0 => .jump cond (.rel (pc0 + 1#16)))
    (hc : getOperand cond (s.advance 2) = .ok 1#16) (h : s.readByte (s.pc + 1#16) = .error e) :
    exec i s = .next ((s.advance 2).takeHalt .execute s.pc (some op) e) :=
  exec_jump_error hrow rfl hc (getOperand_rel_error (s := s.advance 2) h)

end RelativeRows

/-! ## JP and JR -/

/-- Settles O36: the three ways the word read of the target can go, on the condition that always holds; HL is a register
read, which cannot fail. -/
theorem jumpAbsoluteAndToHL : Obligations.JumpAbsoluteAndToHL := by
  constructor
  · intro i hi
    have hrow : OneByteRow 0xC3#8 i .f3 fun pc0 => .jump (.flag .always) (.absWord (pc0 + 1#16)) :=
      oneByteRow_of_form hi rfl nofun
    exact ⟨hrow, fun s _ _ => exec_jump_absWord_ok hrow (getOperand_always _),
      fun s _ => exec_jump_absWord_error_low hrow (getOperand_always _),
      fun s _ _ => exec_jump_absWord_error_high hrow (getOperand_always _)⟩
  · intro i hi
    have hrow : OneByteRow 0xE9#8 i .f1 fun _ => .jump (.flag .always) (.reg (.pair .hl)) :=
      oneByteRow_of_form hi rfl nofun
    exact ⟨hrow, fun s => exec_jump_taken hrow rfl (getOperand_always _) (by simp)⟩

/-- Settles O37: each entry of the two tables is the row of its condition, which reads 1 where the condition holds and 0
where it does not. -/
theorem conditionalJumps : Obligations.ConditionalJumps := by
  constructor
  · rintro ⟨op, cc, cond, holds⟩ hp i hi
    obtain ⟨hop, rfl, rfl⟩ : (Form.jpAbsCC cc).opcode = op ∧ cc.operand = cond ∧ (State.condHolds · cc) = holds := by
      simp only [List.mem_cons, Prod.mk.injEq, List.not_mem_nil, or_false] at hp
      rcases hp with ⟨rfl, rfl, rfl, rfl⟩ | ⟨rfl, rfl, rfl, rfl⟩ | ⟨rfl, rfl, rfl, rfl⟩ | ⟨rfl, rfl, rfl, rfl⟩ <;>
        exact ⟨rfl, rfl, rfl⟩
    have hrow : OneByteRow op i .f3 fun pc0 => .jump cc.operand (.absWord (pc0 + 1#16)) :=
      oneByteRow_of_form hi hop nofun
    exact ⟨hrow, fun s hcc => exec_jump_not_taken hrow rfl (getOperand_cond_of_not_holds hcc 3),
      fun s _ _ hcc => exec_jump_absWord_ok hrow (getOperand_cond_of_holds hcc 3),
      fun s _ hcc => exec_jump_absWord_error_low hrow (getOperand_cond_of_holds hcc 3),
      fun s _ _ hcc => exec_jump_absWord_error_high hrow (getOperand_cond_of_holds hcc 3)⟩
  · rintro ⟨op, cc, cond, holds⟩ hp i hi
    obtain ⟨hop, rfl, rfl⟩ : (Form.jrRelCC cc).opcode = op ∧ cc.operand = cond ∧ (State.condHolds · cc) = holds := by
      simp only [List.mem_cons, Prod.mk.injEq, List.not_mem_nil, or_false] at hp
      rcases hp with ⟨rfl, rfl, rfl, rfl⟩ | ⟨rfl, rfl, rfl, rfl⟩ | ⟨rfl, rfl, rfl, rfl⟩ | ⟨rfl, rfl, rfl, rfl⟩ <;>
        exact ⟨rfl, rfl, rfl⟩
    have hrow : OneByteRow op i .f2r fun pc0 => .jump cc.operand (.rel (pc0 + 1#16)) :=
      oneByteRow_of_form hi hop nofun
    exact ⟨hrow, fun s hcc => exec_jump_not_taken hrow rfl (getOperand_cond_of_not_holds hcc 2),
      fun s _ hcc => exec_jump_rel_ok hrow (getOperand_cond_of_holds hcc 2),
      fun s _ hcc => exec_jump_rel_error hrow (getOperand_cond_of_holds hcc 2)⟩

/-- Settles O38: the two ways the read of the displacement can go, on the condition that always holds. -/
theorem jumpRelative : Obligations.JumpRelative := by
  intro i hi
  have hrow : OneByteRow 0x18#8 i .f2r fun pc0 => .jump (.flag .always) (.rel (pc0 + 1#16)) :=
    oneByteRow_of_form hi rfl nofun
  exact ⟨hrow, fun s _ => exec_jump_rel_ok hrow (getOperand_always _),
    fun s _ => exec_jump_rel_error hrow (getOperand_always _)⟩

/-! ## The frame of the jumps -/

/-- The spec's tables let a jump write pc alone. -/
theorem Footprint.ofForm_of_isJump {f : Form} (h : f.isJump = true) (s : State) :
    ofForm f s = { regs := [], z := false, pc := true, memory := false } := by
  cases f with
  | jpAbs | jpAbsCC _ | jrRel | jrRelCC _ | jpHL => rfl
  | _ => cases h

/-- Settles O59: the frame of the row, whose footprint is pc alone, and STATUS and HALTREC because it completes where
its addresses can be read. -/
theorem frameOfJumps : Obligations.FrameOfJumps := by
  intro i s t hjump h
  have hframe := exec_frame h
  rw [Footprint.ofForm_of_isJump hjump] at hframe
  obtain ⟨hrom, hram⟩ := hframe.memory rfl
  refine ⟨fun r => (hframe.r8 r List.not_mem_nil).trans (s.advance_r8 _ r), hframe.z rfl, hframe.cy, hframe.romLen,
    hrom, hram, State.readByte_congr hframe.romLen hrom hram, fun hread => ?_⟩
  have hkeeps := exec_keeps_of_readable h hread
  exact ⟨hkeeps.status, hkeeps.haltRec⟩

end Sys2Proof.Machine

/-! Proofs of the family 44_misc.md: NOP and DI (R210, R211), Stacked (R212), and running an Undefined opcode (R213;
60_exceptions.md R221). -/

namespace Sys2Proof.Machine

/-! ## A Stacked list (R212) -/

section Stacked

variable {before : List Record} {s t u : State} {r : Record} {e : Trap}

/-- The empty rest of a list adds nothing to what its last member answers. -/
@[simp] theorem Result.andThen_done_right (x : Result) : x.andThen .done = x := by cases x <;> rfl

theorem execute_stacked_nil (s : State) : execute (.stacked []) s = .done s := by
  rw [execute_stacked, executeSeq_nil]

theorem execute_stacked_singleton (r : Record) (s : State) : execute (.stacked [r]) s = execute r s := by
  simp only [execute_stacked, executeSeq_cons, executeSeq_nil, Result.andThen_done_right]

theorem execute_stacked_cons_raised (h : execute r s = .raised e u) (rest : List Record) :
    execute (.stacked (r :: rest)) s = .raised e u := by
  rw [execute_stacked, executeSeq_cons, h, Result.andThen_raised]

/-- The rest of a list whose first part has completed runs on the state that part left. -/
theorem execute_stacked_append (h : execute (.stacked before) s = .done t) (after : List Record) :
    execute (.stacked (before ++ after)) s = execute (.stacked after) t := by
  rw [execute_stacked] at h
  rw [execute_stacked, execute_stacked, executeSeq_append, h, Result.andThen_done]

end Stacked

/-- Settles O17: `execute_stacked_append` leaves the rest of the list, which a fault of its first member ends. -/
theorem stackedMembersRunInOrder : Obligations.StackedMembersRunInOrder := by
  refine ⟨execute_stacked_nil, execute_stacked_singleton, fun before after s t h => ?_⟩
  refine ⟨execute_stacked_append h after, fun r e u hr => ?_⟩
  rw [execute_stacked_append h, execute_stacked_cons_raised hr]

/-! ## An Undefined opcode (R213; 60_exceptions.md R221) -/

/-- A step over bytes that decode to no row: halt entry in Execute, after the Advance-PC over the bytes read. -/
theorem stepWith_of_undefined {p : Profile} {s : State} {op sub op' : Byte} {sub' : Option Byte} {n : Nat}
    (hrun : s.status = .running) (hop : s.readByte s.pc = .ok op)
    (hsub : p.readsSecond op = true → s.readByte (s.pc + 1#16) = .ok sub)
    (hdec : decode p op sub = .undefined op' sub') (hlen : (Decoded.undefined op' sub').length = n) :
    stepWith p s = .next ((s.advance n).takeHalt .execute s.pc (some op') (unimplementedOpcode sub')) := by
  rw [← hlen, ← runUndefined_eq]
  simp [stepWith, hrun, fetchDecode_of_reads hop hsub, hdec]

/-- Settles O40: each clause is `stepWith_of_undefined` at what the Decoder answers for its bytes; the second byte is
read for a CB form alone. -/
theorem undefinedOpcodeHalts : Obligations.UndefinedOpcodeHalts := by
  refine ⟨fun s op hrun hmem hop => ?oneByte, fun s sub hrun hrange hop hsub => ?cbForm,
    fun s op hrun hnop hxor hjp hop => ?minimal⟩
  case oneByte =>
    have hne : op ≠ cbPrefix := fun h => cbPrefix_not_mem_undefinedBytes (h ▸ hmem)
    have hdec := decode_of_oneByteRow_none hne ((oneByteRow_eq_none_iff op).mpr (.inr hmem)) 0#8
    exact stepWith_of_undefined hrun hop (fun h => absurd ((Profile.readsSecond_iff _ _).mp h).2 hne) hdec rfl
  case cbForm =>
    have hdec := decode_of_cbRow_none ((cbRow_eq_none_iff sub).mpr (by omega))
    exact stepWith_of_undefined hrun hop (fun _ => hsub) hdec rfl
  case minimal =>
    exact stepWith_of_undefined hrun hop nofun (decode_minimal_undefined hnop hxor hjp 0#8) rfl

/-! ## NOP and DI (R210, R211) -/

theorem execute_nop (s : State) : execute .nop s = .done s := by rw [execute]

theorem execute_di (s : State) : execute .di s = .done s := by rw [execute]

/-- A one-byte row whose record changes nothing leaves what Advance-PC left. -/
theorem exec_of_record_done {i : Instr} {op : Byte} {r : Record} (hrow : OneByteRow op i .f1 fun _ => r)
    (hdone : ∀ s, execute r s = .done s) (s : State) : exec i s = .next (s.advance 1) := by
  rw [exec_of_oneByteRow hrow, hdone, finish_done, format_f1_length]

/-- Settles O39: `exec_of_record_done` for the record of each of the two rows. -/
theorem nopAndDiOnlyAdvance : Obligations.NopAndDiOnlyAdvance := by
  refine List.forall_mem_cons.mpr ⟨fun i hi => ?nop, List.forall_mem_singleton.mpr fun i hi => ?di⟩
  case nop =>
    have hrow : OneByteRow 0x00#8 i .f1 fun _ => .nop := oneByteRow_of_form hi rfl nofun
    exact ⟨hrow, exec_of_record_done hrow execute_nop⟩
  case di =>
    have hrow : OneByteRow 0xF3#8 i .f1 fun _ => .di := oneByteRow_of_form hi rfl nofun
    exact ⟨hrow, exec_of_record_done hrow execute_di⟩

end Sys2Proof.Machine

/-! Proofs of the family 60_exceptions.md: the operand contract (R223, R225), where Execute halts (R227, R229) and the
state at a halt (R224). -/

namespace Sys2Proof

/-- The opcode byte of what the Decoder answers is the byte it was given (30_encoding.md R76). -/
theorem decode_opcode (p : Profile) (op sub : Byte) : (decode p op sub).opcode = op := by
  rcases h : decode p op sub with i | ⟨op', sub'⟩
  case row =>
    cases p with
    | extended => exact (decode_row_inv h).1.symm
    | minimal => exact (decode_row_inv (decode_minimal_row h)).1.symm
  case undefined =>
    unfold decode at h
    split at h
    · split at h <;> cases h
      rfl
    · split at h <;> split at h <;> cases h <;> rfl

end Sys2Proof

namespace Sys2Proof.Machine

/-! ## The operand contract (R223, R225) -/

theorem Trap.isAccess.cause_cases {e : Trap} (h : e.isAccess) : e.cause = .invalidAddress ∨ e.cause = .romRange := by
  obtain ⟨addr, rfl | rfl⟩ := h
  · exact .inl rfl
  · exact .inr rfl

/-- What a well-formed record raises is a failed access, or the Undefined opcode it is. -/
theorem execute_wf_raised_cause {r : Record} {s t : State} {e : Trap} (hwf : r.wf = true)
    (h : execute r s = .raised e t) :
    e.cause = .unimplementedOpcode ∨ e.cause = .invalidAddress ∨ e.cause = .romRange := by
  cases r with
  | undefined op addr sub =>
    rw [execute] at h
    cases h
    exact .inl rfl
  | _ =>
    have hreg := execute_wf_regularFrom hwf nofun s
    rw [h] at hreg
    exact .inr hreg.2.cause_cases

/-- Settles O56: `Form.record_wf`, and the three causes of `execute_wf_raised_cause` are neither of the two. -/
theorem rowsNeverBreakTheOperandContract : Obligations.RowsNeverBreakTheOperandContract := by
  refine ⟨fun i => i.form.record_wf, fun r s t e hwf h => ?_⟩
  rcases execute_wf_raised_cause hwf h with hc | hc | hc <;> rw [hc] <;> exact ⟨nofun, nofun⟩

/-! ## The first address of a list that cannot be read -/

/-- The trap an access to the address raises, if it raises one. -/
def State.accessFault (s : State) (addr : Addr) : Option Trap :=
  match s.readByte addr with
  | .error e => some e
  | .ok _ => none

/-- The trap of the first address in the list that cannot be read. -/
def State.firstFault (s : State) (addrs : List Addr) : Option Trap := addrs.findSome? s.accessFault

section FirstFault

variable {s : State} {addr other : Addr} {addrs : List Addr} {e : Trap}

theorem State.accessFault_eq_some_iff : s.accessFault addr = some e ↔ s.readByte addr = .error e := by
  unfold State.accessFault
  rcases s.readByte addr with e' | v <;> simp

theorem State.accessFault_eq_none_iff : s.accessFault addr = none ↔ ∃ v, s.readByte addr = .ok v := by
  unfold State.accessFault
  rcases s.readByte addr with e' | v <;> simp

theorem State.firstFault_eq_none_iff :
    s.firstFault addrs = none ↔ ∀ addr ∈ addrs, ∃ v, s.readByte addr = .ok v := by
  simp [State.firstFault, State.accessFault_eq_none_iff]

theorem State.firstFault_eq_some_iff :
    s.firstFault addrs = some e ↔ ∃ before addr after, addrs = before ++ addr :: after ∧
      (∀ a ∈ before, ∃ v, s.readByte a = .ok v) ∧ s.readByte addr = .error e := by
  simp only [State.firstFault, List.findSome?_eq_some_iff, State.accessFault_eq_some_iff,
    State.accessFault_eq_none_iff, and_comm]

@[simp] theorem State.firstFault_nil (s : State) : s.firstFault [] = none := rfl

@[simp] theorem State.firstFault_singleton_eq_some : s.firstFault [addr] = some e ↔ s.readByte addr = .error e := by
  rw [← State.accessFault_eq_some_iff, State.firstFault, List.findSome?_singleton]

@[simp] theorem State.firstFault_pair_eq_some : s.firstFault [addr, other] = some e ↔
    s.readByte addr = .error e ∨ (∃ v, s.readByte addr = .ok v) ∧ s.readByte other = .error e := by
  rw [State.firstFault, List.findSome?_cons, ← State.accessFault_eq_some_iff, ← State.accessFault_eq_some_iff,
    ← State.accessFault_eq_none_iff]
  cases s.accessFault addr <;> simp

/-- A word operand fails at the first of its two bytes that cannot be read (20_memory.md R47). -/
theorem withOperand_absWord_error (h : s.firstFault [addr, addr + 1#16] = some e) (n : Nat) (k : Word → Result) :
    withOperand (.absWord addr) (s.advance n) k = .raised e (s.advance n) := by
  rcases State.firstFault_pair_eq_some.mp h with hlo | ⟨⟨lo, hlo⟩, hhi⟩
  · exact withOperand_absWord_error_low hlo
  · exact withOperand_absWord_error_high hlo hhi

end FirstFault

/-! ## Execute of a row ends at the first address of the table that cannot be read (R227) -/

/-- Nothing was written before the failed access: a row that stores reads first, and a post-increment or
post-decrement load counts HL last (20_memory.md R61). -/
theorem execute_record_raised {f : Form} {s : State} {e : Trap} (h : s.firstFault (f.accessAddrs s) = some e)
    (n : Nat) : execute (f.record s.pc) (s.advance n) = .raised e (s.advance n) := by
  cases f <;> simp only [Form.accessAddrs, State.firstFault_nil, State.firstFault_singleton_eq_some, reduceCtorEq] at h
    <;> rw [Form.record]
  -- a load from memory, or from the bytes of the instruction
  case ldRegInd | ldAIndBC | ldAIndDE => rw [execute_load, withOperand_indByte_error h]
  case ldRegImm => rw [execute_load, withOperand_absByte_error h]
  case ldPairImm =>
    rw [← addr_succ_succ] at h
    rw [execute_load, withOperand_absWord_error h]
  -- a store
  case ldIndReg | ldIndBCA | ldIndDEA =>
    rw [execute_load, withOperand_reg, setOperand_indByte_advance_error (State.writeByte_error_iff_readByte.mpr h)]
  case ldIndImm =>
    rw [execute_load]
    rcases State.firstFault_pair_eq_some.mp h with himm | ⟨⟨v, hv⟩, hhl⟩
    · rw [withOperand_absByte_error himm]
    · rw [withOperand_absByte_ok hv,
        setOperand_indByte_advance_error (State.writeByte_error_iff_readByte.mpr hhl)]
  -- the first member of a Stacked
  case ldAHLInc | ldAHLDec =>
    exact execute_stacked_cons_raised (by rw [execute_load, withOperand_indByte_error h]) _
  case ldHLIncA | ldHLDecA =>
    have hwrite := State.writeByte_error_iff_readByte (v := lowByte (zext16 (s.r8 .a))) |>.mpr h
    refine execute_stacked_cons_raised ?_ _
    rw [execute_load, withOperand_reg]
    exact setOperand_indByte_advance_error hwrite
  -- arithmetic and logic
  case addInd | xorInd => rw [execute, binary, withOperand_reg, withOperand_indByte_error h]
  case addImm | xorImm => rw [execute, binary, withOperand_reg, withOperand_absByte_error h]
  case incInd => rw [execute_inc, withOperand_indByte_error h]
  case decInd => rw [execute_dec, withOperand_indByte_error h]
  case slaInd => rw [execute_shl, withOperand_indByte_error h]
  -- the target of a jump that is taken
  case jpAbs =>
    rw [← addr_succ_succ] at h
    rw [execute, runJump_always, withOperand_absWord_error h]
  case jrRel => rw [execute, runJump_always, withOperand_rel_error h]
  case jpAbsCC cc =>
    rw [← addr_succ_succ] at h
    rw [execute, runJump_cond, State.advance_condHolds]
    split_ifs at h ⊢
    · exact withOperand_absWord_error h n _
    · cases h
  case jrRelCC cc =>
    rw [execute, runJump_cond, State.advance_condHolds]
    split_ifs at h ⊢
    · exact withOperand_rel_error (State.firstFault_singleton_eq_some.mp h)
    · cases h

/-- A row with an address that cannot be read halts at the first of them, after its Advance-PC. -/
theorem exec_of_firstFault {i : Instr} {s : State} {e : Trap} (h : s.firstFault (i.form.accessAddrs s) = some e) :
    exec i s = .next ((s.advance i.form.length).takeHalt .execute s.pc (some i.form.opcode) e) := by
  rw [exec_eq_runForm, runForm, runRecord, execute_record_raised h, finish_raised]

/-- A row halts a Running core by the first fault of its addresses alone; without one it completes (R229). -/
theorem exec_halted {i : Instr} {s t : State} (hrun : s.status = .running) (h : exec i s = .next t)
    (ht : t.status = .halted) :
    ∃ e, s.firstFault (i.form.accessAddrs s) = some e ∧
      t = (s.advance i.form.length).takeHalt .execute s.pc (some i.form.opcode) e := by
  cases hfault : s.firstFault (i.form.accessAddrs s) with
  | none =>
    have hkeeps := exec_keeps_of_readable h (State.firstFault_eq_none_iff.mp hfault)
    rw [hkeeps.status, hrun] at ht
    cases ht
  | some e =>
    rw [exec_of_firstFault hfault] at h
    cases h
    exact ⟨e, rfl, rfl⟩

/-- Settles O51: `exec_halted` for the first part, its trap being that of a failed byte read;
`exec_keeps_of_readable` for the second. -/
theorem executeHaltsWhereTheTableSays : Obligations.ExecuteHaltsWhereTheTableSays := by
  refine ⟨fun i s t hrun h ht => ?halts, fun i s hrun hread => ?completes⟩
  case halts =>
    obtain ⟨e, hfault, hstate⟩ := exec_halted hrun h ht
    obtain ⟨before, addr, after, hsplit, hbefore, hbad⟩ := State.firstFault_eq_some_iff.mp hfault
    exact ⟨before, addr, after, e, hsplit, hbefore, hbad, State.readByte_error_isAccessAt hbad, hstate⟩
  case completes =>
    obtain ⟨t, ht⟩ := exec_next i s
    have hkeeps := exec_keeps_of_readable ht hread
    exact ⟨t, ht, hkeeps.status.trans hrun, hkeeps.haltRec⟩

/-! ## The state at a halt (R224) -/

/-- Everything a step that halts a Running core can be: halt entry in Fetch or Decode from the state as it was, or in
Execute from the state Advance-PC left. -/
theorem stepWith_halted_cases {p : Profile} {s t : State} (hrun : s.status = .running) (h : stepWith p s = .next t)
    (ht : t.status = .halted) :
    (∃ e, t = s.takeHalt .fetch s.pc none e) ∨ (∃ op e, t = s.takeHalt .decode s.pc (some op) e) ∨
    ∃ op sub e, s.readByte s.pc = .ok op ∧ (p.readsSecond op = true → s.readByte (s.pc + 1#16) = .ok sub) ∧
      t = (s.advance (decode p op sub).length).takeHalt .execute s.pc (some op) e := by
  rcases fetchDecode_cases p s with ⟨e, -, hf⟩ | ⟨op, e, -, -, -, hf⟩ | ⟨op, sub, hop, hsub, -⟩
  case inl =>
    rw [stepWith_of_fetchDecode_halted hrun hf] at h
    cases h
    exact .inl ⟨e, rfl⟩
  case inr.inl =>
    rw [stepWith_of_fetchDecode_halted hrun hf] at h
    cases h
    exact .inr (.inl ⟨op, e, rfl⟩)
  case inr.inr =>
    refine .inr (.inr ⟨op, sub, ?_⟩)
    have hopcode := decode_opcode p op sub
    cases hdec : decode p op sub with
    | row i =>
      rw [hdec] at hopcode
      rw [stepWith_of_row hrun hop hsub hdec] at h
      obtain ⟨e, -, rfl⟩ := exec_halted hrun h ht
      exact ⟨e, hop, hsub, by rw [← hopcode]; rfl⟩
    | undefined op' sub' =>
      rw [hdec] at hopcode
      rw [stepWith_of_undefined hrun hop hsub hdec rfl] at h
      cases h
      exact ⟨_, hop, hsub, by rw [← hopcode]; rfl⟩

/-- Settles O50: each case of `stepWith_halted_cases` is halt entry, from `s` or from `s` after Advance-PC. -/
theorem haltingStepChangesOnlyPc : Obligations.HaltingStepChangesOnlyPc := by
  intro p s t hrun h ht
  rcases stepWith_halted_cases hrun h ht with ⟨e, rfl⟩ | ⟨op, e, rfl⟩ | ⟨op, sub, e, hop, hsub, rfl⟩
  case inl => simp
  case inr.inl => simp
  case inr.inr => simpa using ⟨hop, sub, hsub, rfl⟩

end Sys2Proof.Machine

/-! Proofs of the family other: the Decoder against the encoder (30_encoding.md R70 to R72, R76 to R79), the invariant
at RESET and along every step (10_state.md R21 to R24, R30), and the image `State.reset` stands for. -/

namespace Sys2Proof.Machine

/-! ## The Decoder over a list of bytes (30_encoding.md R70, R76) -/

/-- The bytes that give a row: an opcode, with its second byte at hand where the Decoder reads one. -/
theorem decodeStream_ok_iff {p : Profile} {bytes : List Byte} {i : Instr} {n : Nat} :
    decodeStream p bytes = .ok (i, n) ↔
      ∃ op rest, bytes = op :: rest ∧ (p.readsSecond op = true → rest ≠ []) ∧
        decode p op (rest.headD 0#8) = .row i ∧ i.form.length = n := by
  cases bytes with
  | nil => simp [decodeStream]
  | cons op rest =>
    by_cases hmissing : p.readsSecond op = true ∧ rest = []
    · obtain ⟨hsecond, rfl⟩ := hmissing
      simp [decodeStream, hsecond]
    · have hsecond : p.readsSecond op = true → rest ≠ [] := fun h hnil => hmissing ⟨h, hnil⟩
      cases hdec : decode p op (rest.headD 0#8) with
      | undefined op' sub => simp [decodeStream, hmissing, hdec, -List.headD_eq_head?_getD]
      | row j =>
        have hok : decodeStream p (op :: rest) = .ok (j, j.form.length) := by
          simp [decodeStream, hmissing, hdec, -List.headD_eq_head?_getD]
        rw [hok]
        constructor
        · rintro ⟨⟩
          exact ⟨op, rest, rfl, hsecond, hdec, rfl⟩
        · rintro ⟨op', rest', ⟨⟩, -, hrow, rfl⟩
          cases hdec.symm.trans hrow
          rfl

/-! ## The shape of an encoding (R71, R72) -/

theorem encode_length (i : Instr) (imm : Word) : (encode i imm).length = i.form.length := by
  rcases h : i.form.format <;> simp [encode, Form.opcodeBytes, Format.operandBytes, Form.length, Format.length, h]

theorem encode_of_prefixed {i : Instr} (h : i.form.format = .fcb) (imm : Word) :
    encode i imm = [i.form.opcode, i.form.subOpcode] := by
  simp [encode, Form.opcodeBytes, Format.operandBytes, h]

theorem encode_of_not_prefixed {i : Instr} (h : i.form.format ≠ .fcb) (imm : Word) :
    encode i imm = i.form.opcode :: i.form.format.operandBytes imm := by
  rcases hf : i.form.format with _ | _ | _ | _ | _
  case fcb => exact absurd hf h
  all_goals simp [encode, Form.opcodeBytes, hf]

/-- An encoding is its opcode, then the sub-opcode of a CB form or the operand bytes of any other. -/
theorem encode_eq_cons (i : Instr) (imm : Word) :
    ∃ tail, encode i imm = i.form.opcode :: tail ∧ (i.form.format = .fcb → tail = [i.form.subOpcode]) := by
  by_cases h : i.form.format = .fcb
  · exact ⟨_, encode_of_prefixed h imm, fun _ => rfl⟩
  · exact ⟨_, encode_of_not_prefixed h imm, fun hcb => absurd hcb h⟩

/-- Whatever bytes follow an opcode are the operand bytes of some operand, once there are enough of them. -/
theorem exists_operandBytes {fmt : Format} {rest : List Byte} (h : fmt ≠ .fcb) (hlen : fmt.length ≤ rest.length + 1)
    (op : Byte) : ∃ imm, op :: fmt.operandBytes imm = (op :: rest).take fmt.length := by
  cases fmt
  case f1 => exact ⟨0#16, rfl⟩
  case f2i | f2r =>
    obtain ⟨v, rest, rfl⟩ := List.exists_cons_of_length_pos (Nat.le_of_succ_le_succ hlen)
    exact ⟨zext16 v, congrArg (fun low => [op, low]) (lowByte_zext16 v)⟩
  case f3 =>
    match rest, hlen with
    | lo :: hi :: _, _ =>
      exact ⟨composeWord hi lo,
        congrArg₂ (fun low high => [op, low, high]) (lowByte_composeWord hi lo) (highByte_composeWord hi lo)⟩
  case fcb => exact absurd rfl h

/-! ## Decode and encode agree -/

/-- Settles O42: an encoding begins with the bytes `decode_row` reads the row from, whatever its operand. -/
theorem decodeOfEncode : Obligations.DecodeOfEncode := by
  intro i imm rest
  obtain ⟨tail, henc, hsub⟩ := encode_eq_cons i imm
  refine decodeStream_ok_iff.mpr ⟨i.form.opcode, tail ++ rest, by rw [henc, List.cons_append], fun hsecond => ?_,
    decode_row i _ fun hcb => ?_, (encode_length i imm).symm⟩
  · obtain ⟨-, hprefix⟩ := (Profile.readsSecond_iff _ _).mp hsecond
    simp [hsub (i.form.opcode_prefix_iff.mp hprefix)]
  · simp [hsub hcb]

/-- Bytes that decode to a row begin with an encoding of it: the opcode bytes are the row's by `decode_row_inv`, and
what follows is some operand by `exists_operandBytes`. -/
theorem exists_encode_of_decodeStream {bytes : List Byte} {i : Instr} {n : Nat}
    (h : decodeStream .extended bytes = .ok (i, n)) (hn : n ≤ bytes.length) :
    ∃ imm, encode i imm = bytes.take n := by
  obtain ⟨op, rest, rfl, hsecond, hdec, rfl⟩ := decodeStream_ok_iff.mp h
  obtain ⟨rfl, hsub⟩ := decode_row_inv hdec
  by_cases hcb : i.form.format = .fcb
  · have hprefix := (Profile.readsSecond_iff .extended _).mpr ⟨rfl, i.form.opcode_prefix_iff.mpr hcb⟩
    obtain ⟨sub, rest, rfl⟩ := List.exists_cons_of_ne_nil (hsecond hprefix)
    refine ⟨0#16, ?_⟩
    rw [encode_of_prefixed hcb, ← hsub hcb, Form.length, hcb]
    rfl
  · obtain ⟨imm, himm⟩ := exists_operandBytes hcb hn i.form.opcode
    exact ⟨imm, (encode_of_not_prefixed hcb imm).trans himm⟩

/-- An encoding determines its row: it decodes to one row alone. -/
theorem encode_injective_row {i j : Instr} {imm imm' : Word} (h : encode i imm = encode j imm') : i = j := by
  have hi := decodeOfEncode i imm []
  have hj := decodeOfEncode j imm' []
  rw [h, hj] at hi
  exact (Prod.mk.inj (Except.ok.inj hi)).1.symm

/-- Settles O43: the two directions of the round trip, `exists_encode_of_decodeStream` and `encode_injective_row`. -/
theorem encodeOfDecode : Obligations.EncodeOfDecode :=
  ⟨fun _ _ _ => exists_encode_of_decodeStream, fun _ _ _ _ => encode_injective_row⟩

/-- Settles O41: the Decoder is evaluated on each of the ten words. -/
theorem someWordsDecode : Obligations.SomeWordsDecode := by
  refine ⟨?_, ?_, ?_, ?_, ?_, ?_, ?_, ?_, ?_, ?_⟩ <;> rfl

/-! ## The invariant along every step, and at RESET -/

/-- Settles O54: each case of `stepWith_cases` keeps the invariant, as `stepWith_invariant` says. -/
theorem stepKeepsTheInvariant : Obligations.StepKeepsTheInvariant :=
  fun _ _ _ => stepWith_invariant

/-- An image of zero bytes lists no offset (10_state.md R21; log 2). -/
theorem Memory.ofBytes_replicate_zero (k off : Nat) : Memory.ofBytes off (List.replicate k 0x00#8) = [] := by
  induction k generalizing off with
  | zero => rfl
  | succ k ih =>
    have hzero : 0x00#8 = Memory.unlisted := rfl
    rw [List.replicate_succ, Memory.ofBytes, if_pos hzero, ih]

/-- Settles O2: the zero image lists no offset and has the length `State.reset` names. -/
theorem resetIsResetOfTheZeroImage : Obligations.ResetIsResetOfTheZeroImage := by
  unfold Obligations.ResetIsResetOfTheZeroImage
  rw [State.resetWith, List.length_replicate, Memory.ofBytes_replicate_zero]
  rfl

/-- Settles O3: `resetWith_invariant`, for `State.reset` at the zero image. -/
theorem resetMeetsTheInvariant : Obligations.ResetMeetsTheInvariant := by
  refine ⟨?_, resetWith_invariant⟩
  rw [resetIsResetOfTheZeroImage]
  exact resetWith_invariant _

end Sys2Proof.Machine
